-- ==== Sys2Proof/Word.lean ====
section
/-! DEFINITION. The two word types of the block: bytes and 16-bit words (00_scope.md R6, R8, R9). Arithmetic on them
wraps (R8), which is what `BitVec` addition and subtraction do. The bit-field helpers are in `Machine/Bits.lean`. -/

namespace Sys2Proof

/-- A byte: the width of `A`, `X`, `Y`, `SP`, `P` and of one bus transfer (R6, R50). Bit 0 is the least significant (R9). -/
abbrev Byte := BitVec 8

/-- A 16-bit word: the width of `PC` and of an address (R6, R45). -/
abbrev Word := BitVec 16

end Sys2Proof
end

