-- ==== Sys2Proof/Machine/Bits.lean ====
section
/-! DEFINITION. Bit-field, sign-extension and byte-order helpers (00_scope.md R9, R10, R16; 20_memory.md R49). -/

namespace Sys2Proof.Machine

/-- `v mod 2^8` of a word (R10). -/
def lo8 (w : Word) : Byte := w.setWidth 8

/-- `v[15:8]` (R9). -/
def hi8 (w : Word) : Byte := (w >>> 8).setWidth 8

/-- `(hi << 8) | lo` (R9): two bytes as a 16-bit value. -/
def ofHiLo (hi lo : Byte) : Word := (hi.setWidth 16 <<< 8) ||| lo.setWidth 16

/-- `zext_16` (R9). -/
def zext16 (b : Byte) : Word := b.setWidth 16

/-- `sext_16` (R9): the byte read as signed two's complement. -/
def sext16 (b : Byte) : Word := b.signExtend 16

/-- `pageOf(a) = a[15:8]` (R16, R135). -/
def pageOf (a : Word) : Byte := hi8 a

/-- The bit of a byte that a flag stands for, or 0 (10_state.md R35). -/
def flagBit (f : Bool) (place : Nat) : Byte := (BitVec.ofBool f).setWidth 8 <<< place

end Sys2Proof.Machine
end

