-- ==== Sys2Proof/Config.lean ====
section
/-! DEFINITION. What an implementation fixes (00_scope.md R6), the vocabulary of the bus (20_memory.md R46), and the free
values: the two `opaque` constants have no body, so nothing can be proved about which value they take. -/

namespace Sys2Proof

/-- One event on the bus port: `MemRead(addr, 1)` with the byte the bus answered, or `MemWrite(addr, 1, v)`
(00_scope.md R11, 20_memory.md R46, R50: every event moves exactly one byte). -/
inductive BusEvent where
  | read (addr : Word) (value : Byte)
  | write (addr : Word) (value : Byte)
  deriving DecidableEq, Repr

/-- One block of addresses of the open parameter `IO_REGION`, both ends included (00_scope.md R6, 20_memory.md R47). -/
structure IoRange where
  first : Word
  last  : Word
  deriving DecidableEq, Repr

namespace Config

/-- `STACK_BASE` (R6): the stack page is page 1. -/
def stackBase : Word := 0x0100
/-- `IRQ_BRK_VECTOR` (R6): the address of the low byte. -/
def irqBrkVector : Word := 0xFFFE
/-- `RESET_VECTOR` (R6): the address of the low byte. -/
def resetVector : Word := 0xFFFC
/-- `RESET_SP` (R6, R220). -/
def resetSp : Byte := 0xFD

/-- The open parameter `BRK_SETS_I` (R6, R147, R201; 92_eei_decisions.md D11): the spec gives no value, so it has none
here. Log entry 4. -/
opaque brkSetsI : Bool

/-- FREE VALUE (R47, R48; 93_implementation_defined.md U5): what the bus answers to a read inside `IO_REGION`, given all
the bus events before it. The history grows with every event, so no two reads of a run share a draw. Log entry 3. -/
opaque ioByte : List BusEvent → Word → Byte

/-- What a byte of memory that is not listed reads as. DESIGN CHOICE (the spec: "any value", R48, U4). Log entry 2. -/
def unlistedByte : Byte := 0x00

end Config
end Sys2Proof
end

