-- ==== Sys2Proof/Machine/State.lean ====
section
/-! DEFINITION. The state of the block as plain data (10_state.md R20, R42), with the memory and the event history behind
its bus port (20_memory.md R46, R48), the reasons a step can stop, and the state right after reset (R40, R220). -/

namespace Sys2Proof.Machine

/-- The registers and flags that the spec calls cells (R21): each holds a value of its width, or none. -/
inductive RegCell where
  | a | x | y | sp | pc | c | z | i | d | v | n
  deriving DecidableEq, Repr

/-- Why a step stops with a fault, and what the fault mark records (R39). A fault is final: the block takes no further step
(R214). -/
inductive Fault where
  /-- Raised by `execUnassigned`, and by `step` on a block that holds this mark: the opcode byte is one of the 25 that the
  spec leaves unassigned (R72, R90). SAFE: the machine stops where hardware goes on. -/
  | unassignedOpcode (op : Byte)
  /-- Raised by `trackedStep` (Machine/Unset.lean), which knows the cells that hold no value: the step reads one of them
  (R22). Raised by `step` only on a block that holds this mark already: in `State` every register holds a value, and no
  meaning raises it (log entry 1). SAFE: the spec stops where hardware goes on. -/
  | uninitRead (cell : RegCell)
  deriving DecidableEq, Repr

/-- Why a step refuses an instruction. -/
inductive Refusal where
  /-- Raised by `exec` alone, for an instruction that has no meaning yet. SAFE. No arm of `exec` raises it now. -/
  | notModelled (mnemonic : String)
  deriving DecidableEq, Repr

/-- The bytes behind the bus: (address, byte) pairs, addresses strictly rising below 2^16, none listed with the byte that an
unlisted address reads as (`Memory.wf`). -/
abbrev Memory := List Host.Cell

/-- The state of the block. -/
structure State where
  /-- A, the accumulator (R23). -/
  a : Byte
  /-- X, the index register X (R24). -/
  x : Byte
  /-- Y, the index register Y (R25). -/
  y : Byte
  /-- SP, the stack pointer, an index into the stack page (R26). -/
  sp : Byte
  /-- PC, the program counter (R27). -/
  pc : Word
  /-- C, carry, bit 0 of P (R28). -/
  c : Bool
  /-- Z, zero, bit 1 of P (R29). -/
  z : Bool
  /-- I, interrupt disable, bit 2 of P (R30). -/
  i : Bool
  /-- D, decimal, bit 3 of P, inert (R31). -/
  d : Bool
  /-- B, break, bit 4 of P, a stored bit that no instruction reads (R32). -/
  b : Bool
  /-- V, overflow, bit 6 of P (R34). -/
  v : Bool
  /-- N, negative, bit 7 of P (R35). -/
  n : Bool
  /-- The cycle counter, unbounded (R38). -/
  cycles : Nat
  /-- The fault mark (R39). -/
  fault : Option Fault
  /-- The memory behind the bus port (R45, R48). -/
  memory : Memory
  /-- The open parameter `IO_REGION` (R6, R47): the model's own field, changed by no instruction. Log entry 5. -/
  ioRegion : List IoRange
  /-- Every bus event so far, oldest first (R46). Log entry 7. -/
  events : List BusEvent
  deriving DecidableEq, Repr

/-- The machine right after reset (R40, R220): SP, I, B, `cycles` and the fault mark as the spec states them; PC from the
reset vector, whose two bytes nothing has written (log entry 2); A, X, Y, C, Z, D, V, N zero by DESIGN CHOICE (log
entry 1); nothing listed in memory; the two bus reads that reset issues. `Laws/Reset.lean` shows that it is the reset
operation of R220 applied to a constructed block. -/
def State.reset : State where
  a := 0x00
  x := 0x00
  y := 0x00
  sp := Config.resetSp
  pc := 0x0000
  c := false
  z := false
  i := true
  d := false
  b := false
  v := false
  n := false
  cycles := 0
  fault := none
  memory := []
  ioRegion := []
  events := [.read Config.resetVector Config.unlistedByte, .read (Config.resetVector + 1) Config.unlistedByte]

end Sys2Proof.Machine
end

