-- ==== Sys2Proof/Machine/Flags.lean ====
section
/-! DEFINITION. The flag-update logic and the ALU datapath (41_arith_logic.md R100 to R106), and the status byte
(10_state.md R35 to R37). -/

namespace Sys2Proof.Machine

/-- `updateZN(v)` (R100). -/
def updateZN (v : Byte) (s : State) : State := { s with z := v == 0, n := v.getLsbD 7 }

/-- `updateAZN(v)` (R101). -/
def updateAZN (v : Byte) (s : State) : State := updateZN v { s with a := v }

/-- What the adder and the subtractor give: the byte, the carry-out, the overflow. -/
structure AluResult where
  r    : Byte
  cout : Bool
  vout : Bool
  deriving DecidableEq, Repr

/-- The adder `adc8(a, v, cin)` (R102): the sum is an exact integer. -/
def adc8 (a v : Byte) (cin : Bool) : AluResult :=
  let sum : Nat := a.toNat + v.toNat + cin.toNat
  let r : Byte := BitVec.ofNat 8 sum
  { r := r
    cout := decide (sum > 255)
    vout := ((a ^^^ v) &&& 0x80) == 0 && ((a ^^^ r) &&& 0x80) != 0 }

/-- The subtractor `sbc8(a, v, cin)` (R103): the difference is an exact signed integer; carry-out 1 means no borrow (R18). -/
def sbc8 (a v : Byte) (cin : Bool) : AluResult :=
  let diff : Int := (a.toNat : Int) - v.toNat - (1 - cin.toNat)
  let r : Byte := BitVec.ofInt 8 diff
  { r := r
    cout := decide (diff ≥ 0)
    vout := ((a ^^^ v) &&& 0x80) != 0 && ((a ^^^ r) &&& 0x80) != 0 }

/-- The logic unit (R104). -/
def and8 (a v : Byte) : Byte := a &&& v
/-- The logic unit (R104). -/
def or8 (a v : Byte) : Byte := a ||| v
/-- The logic unit (R104). -/
def xor8 (a v : Byte) : Byte := a ^^^ v

/-- What the shifter gives: the byte and the bit shifted out. -/
structure ShiftResult where
  r    : Byte
  cout : Bool
  deriving DecidableEq, Repr

/-- `shl(v, fin)` (R105). -/
def shl (v : Byte) (fin : Bool) : ShiftResult :=
  { r := (v <<< 1) ||| flagBit fin 0, cout := v.getLsbD 7 }

/-- `shr(v, fin)` (R105). -/
def shr (v : Byte) (fin : Bool) : ShiftResult :=
  { r := (v >>> 1) ||| flagBit fin 7, cout := v.getLsbD 0 }

/-- The comparator `compare(a, b)` (R106). -/
def compareBytes (a b : Byte) (s : State) : State := updateZN (a - b) { s with c := decide (a ≥ b) }

/-- The status byte with `bit4` in place of the stored B (R35, R36); bit 5 is 1 (R17, R33). -/
def statusWith (bit4 : Bool) (s : State) : Byte :=
  flagBit s.n 7 ||| flagBit s.v 6 ||| flagBit true 5 ||| flagBit bit4 4 ||| flagBit s.d 3 ||| flagBit s.i 2 |||
    flagBit s.z 1 ||| flagBit s.c 0

/-- The status byte P as the host reads it (R35). -/
def statusByte (s : State) : Byte := statusWith s.b s

/-- The pushed status byte `Ppush`, of PHP and BRK (R36). -/
def pushedStatus (s : State) : Byte := statusWith true s

/-- The status write from a pulled byte, of PLP and RTI (R37). -/
def writeStatus (p : Byte) (s : State) : State :=
  { s with
    c := p.getLsbD 0, z := p.getLsbD 1, i := p.getLsbD 2, d := p.getLsbD 3, b := false, v := p.getLsbD 6, n := p.getLsbD 7 }

end Sys2Proof.Machine
end

