-- ==== Sys2Proof/Machine/Ops.lean ====
section
/-! DEFINITION. The shared operations: the bus port, the stack, taking the one trap (BRK) and returning from it. An
operation that yields a value answers the value with the state after it; the order of the operations is the order of the
bus events (20_memory.md R46). -/

namespace Sys2Proof.Machine

/-- The address lies in one block of the I/O region. -/
def inRange (a : Word) (r : IoRange) : Bool := decide (r.first ≤ a) && decide (a ≤ r.last)

/-- The address lies in `IO_REGION` (R47). -/
def isIo (region : List IoRange) (a : Word) : Bool := region.any (inRange a)

/-- The state with bus events added to the history (R46). -/
def record (es : List BusEvent) (s : State) : State := { s with events := s.events ++ es }

/-- What the bus answers to a read (R48): a draw in `IO_REGION` (log entry 3), the memory byte outside. -/
def busValue (a : Word) (s : State) : Byte :=
  if isIo s.ioRegion a then Config.ioByte s.events a else s.memory.read a.toNat

/-- `MemRead(addr, 1)` (R11): the byte, and the state with the event recorded. -/
def memRead (a : Word) (s : State) : Byte × State :=
  (busValue a s, record [.read a (busValue a s)] s)

/-- `MemWrite(addr, 1, v)` (R11, R48): inside `IO_REGION` a write is recorded and has no further meaning. -/
def memWrite (a : Word) (v : Byte) (s : State) : State :=
  record [.write a v] { s with memory := if isIo s.ioRegion a then s.memory else s.memory.write a.toNat v }

/-- Two byte reads, the low byte first, as a 16-bit value: the pointer fetches (R50, R86 to R88) and `read16`. -/
def readPair (lo hi : Word) (s : State) : Word × State :=
  let l := memRead lo s
  let h := memRead hi l.2
  (ofHiLo h.1 l.1, h.2)

/-- `read16(addr)` (R11): the second address wraps modulo 2^16. -/
def read16 (a : Word) (s : State) : Word × State := readPair a (a + 1) s

/-- The stack-page address that a stack pointer names (R55, R56). -/
def stackAddr (sp : Byte) : Word := Config.stackBase ||| zext16 sp

/-- `push(b)` (R55): the write, then the decrement, which wraps in the page. -/
def push (b : Byte) (s : State) : State :=
  let t := memWrite (stackAddr s.sp) b s
  { t with sp := t.sp - 1 }

/-- `pop()` (R56): the increment, then the read. -/
def pop (s : State) : Byte × State :=
  let t : State := { s with sp := s.sp + 1 }
  memRead (stackAddr t.sp) t

/-- `push16(w)` (R57): high byte first. -/
def push16 (w : Word) (s : State) : State := push (lo8 w) (push (hi8 w) s)

/-- `pop16()` (R58): low byte first. -/
def pop16 (s : State) : Word × State :=
  let l := pop s
  let h := pop l.2
  (ofHiLo h.1 l.1, h.2)

/-- Taking the software interrupt (R147, R201): push PC and the status byte with bit 4 set, set B, set I if `BRK_SETS_I`,
and load PC from the vector. PC is the advanced PC, one past the BRK byte (R69). -/
def takeBreak (s : State) : State :=
  let t := push (pushedStatus s) (push16 s.pc s)
  let u : State := { t with b := true, i := t.i || Config.brkSetsI }
  let target := read16 Config.irqBrkVector u
  { target.2 with pc := target.1 }

/-- Returning from it (R148, R203): pull the status, then PC, with no adjustment. -/
def returnFromBreak (s : State) : State :=
  let p := pop s
  let q := pop16 (writeStatus p.1 p.2)
  { q.2 with pc := q.1 }

end Sys2Proof.Machine
end

