-- ==== Sys2Proof/Syntax.lean ====
section
/-! DEFINITION. The instructions as syntax. Each mnemonic of spec/opcode_table.json is one constructor of `Instr`; the
table's rows with that mnemonic are its operand forms (its addressing modes, 30_encoding.md R95) and, where several
opcode bytes stand for one form (DOP, TOP, the one-byte NOPs, the unassigned bytes), the opcode byte itself. The kind
of operand (VALUE, ADDRESS, ACCUMULATOR, RELATIVE, IMPLIED: R68) is the type of the constructor's argument (R19, R94). -/

namespace Sys2Proof

/-- The thirteen addressing modes (R76 to R88). -/
inductive Mode where
  | imp | acc | imm | zp | zpx | zpy | abs | abx | aby | ind | izx | izy | rel
  deriving DecidableEq, Repr

/-- A memory operand: the eight modes that resolve to an effective address of data (R79 to R84, R87, R88). -/
inductive Mem where
  /-- `$nn` (R79). -/
  | zp (b : Byte)
  /-- `$nn,X` (R80). -/
  | zpx (b : Byte)
  /-- `$nn,Y` (R81). -/
  | zpy (b : Byte)
  /-- `$nnnn` (R82). -/
  | abs (w : Word)
  /-- `$nnnn,X` (R83). -/
  | abx (w : Word)
  /-- `$nnnn,Y` (R84). -/
  | aby (w : Word)
  /-- `($nn,X)` (R87). -/
  | izx (b : Byte)
  /-- `($nn),Y` (R88). -/
  | izy (b : Byte)
  deriving DecidableEq, Repr

/-- The operand of a VALUE operation (R68, R73): the immediate byte, or the byte read from an effective address. -/
inductive Value where
  | imm (b : Byte)
  | mem (m : Mem)
  deriving DecidableEq, Repr

/-- The operand of a shift or rotate: the accumulator in place (R77), or memory (R68). -/
inductive ShiftTarget where
  | acc
  | mem (m : Mem)
  deriving DecidableEq, Repr

/-- The operand of JMP: the target itself (R82), or the address of a pointer to it (R86). -/
inductive JumpTarget where
  | abs (w : Word)
  | ind (w : Word)
  deriving DecidableEq, Repr

/-- The instructions, in the order of the instruction rules R107 to R197. -/
inductive Instr where
  /-- ADC, R107 -/
  | adc (o : Value)
  /-- SBC, R108 -/
  | sbc (o : Value)
  /-- AND, R109 -/
  | and (o : Value)
  /-- ORA, R110 -/
  | ora (o : Value)
  /-- EOR, R111 -/
  | eor (o : Value)
  /-- ASL, R112 (accumulator) and R113 (memory) -/
  | asl (o : ShiftTarget)
  /-- LSR, R114 and R115 -/
  | lsr (o : ShiftTarget)
  /-- ROL, R116 and R117 -/
  | rol (o : ShiftTarget)
  /-- ROR, R118 and R119 -/
  | ror (o : ShiftTarget)
  /-- CMP, R120 -/
  | cmp (o : Value)
  /-- CPX, R121 -/
  | cpx (o : Value)
  /-- CPY, R122 -/
  | cpy (o : Value)
  /-- BIT, R123 -/
  | bit (m : Mem)
  /-- INC, R124 -/
  | inc (m : Mem)
  /-- DEC, R125 -/
  | dec (m : Mem)
  /-- INX, R126 -/
  | inx
  /-- INY, R127 -/
  | iny
  /-- DEX, R128 -/
  | dex
  /-- DEY, R129 -/
  | dey
  /-- BCC, R136 -/
  | bcc (offset : Byte)
  /-- BCS, R137 -/
  | bcs (offset : Byte)
  /-- BEQ, R138 -/
  | beq (offset : Byte)
  /-- BNE, R139 -/
  | bne (offset : Byte)
  /-- BMI, R140 -/
  | bmi (offset : Byte)
  /-- BPL, R141 -/
  | bpl (offset : Byte)
  /-- BVC, R142 -/
  | bvc (offset : Byte)
  /-- BVS, R143 -/
  | bvs (offset : Byte)
  /-- JMP, R144 -/
  | jmp (target : JumpTarget)
  /-- JSR, R145 -/
  | jsr (target : Word)
  /-- RTS, R146 -/
  | rts
  /-- BRK, R147 -/
  | brk
  /-- RTI, R148 -/
  | rti
  /-- PHA, R149 -/
  | pha
  /-- PHP, R150 -/
  | php
  /-- PLA, R151 -/
  | pla
  /-- PLP, R152 -/
  | plp
  /-- CLC, R160 -/
  | clc
  /-- CLD, R161 -/
  | cld
  /-- CLI, R162 -/
  | cli
  /-- CLV, R163 -/
  | clv
  /-- SEC, R164 -/
  | sec
  /-- SED, R165 -/
  | sed
  /-- SEI, R166 -/
  | sei
  /-- TAX, R167 -/
  | tax
  /-- TAY, R168 -/
  | tay
  /-- TSX, R169 -/
  | tsx
  /-- TXA, R170 -/
  | txa
  /-- TXS, R171 -/
  | txs
  /-- TYA, R172 -/
  | tya
  /-- LDA, R173 -/
  | lda (o : Value)
  /-- LDX, R174 -/
  | ldx (o : Value)
  /-- LDY, R175 -/
  | ldy (o : Value)
  /-- STA, R176 -/
  | sta (m : Mem)
  /-- STX, R177 -/
  | stx (m : Mem)
  /-- STY, R178 -/
  | sty (m : Mem)
  /-- NOP, R179 -/
  | nop
  /-- SLO, R186 -/
  | slo (m : Mem)
  /-- SRE, R187 -/
  | sre (m : Mem)
  /-- RLA, R188 -/
  | rla (m : Mem)
  /-- RRA, R189 -/
  | rra (m : Mem)
  /-- DCP, R190 -/
  | dcp (m : Mem)
  /-- ISC, R191 -/
  | isc (m : Mem)
  /-- LAX, R192 -/
  | lax (m : Mem)
  /-- SAX, R193 -/
  | sax (m : Mem)
  /-- DOP, R194: `opcode` says which of the fourteen bytes it is -/
  | dop (opcode : Byte) (o : Value)
  /-- TOP, R195: `opcode` says which of the seven bytes it is -/
  | top (opcode : Byte) (o : Value)
  /-- NOP* (the one-byte undocumented no-operations), R196: `opcode` says which of the six bytes it is -/
  | nopU (opcode : Byte)
  /-- SBC* (the undocumented byte EB, immediate only), R197 -/
  | sbcU (b : Byte)
  /-- UNASSIGNED, R72 and R90: `opcode` says which of the 25 bytes it is -/
  | unassigned (opcode : Byte)
  deriving DecidableEq, Repr

/-- The addressing mode of a memory operand. -/
def Mem.mode : Mem → Mode
  | .zp _ => .zp
  | .zpx _ => .zpx
  | .zpy _ => .zpy
  | .abs _ => .abs
  | .abx _ => .abx
  | .aby _ => .aby
  | .izx _ => .izx
  | .izy _ => .izy

/-- The addressing mode of a VALUE operand. -/
def Value.mode : Value → Mode
  | .imm _ => .imm
  | .mem m => m.mode

/-- The addressing mode of a shift operand. -/
def ShiftTarget.mode : ShiftTarget → Mode
  | .acc => .acc
  | .mem m => m.mode

/-- The addressing mode of a JMP operand. -/
def JumpTarget.mode : JumpTarget → Mode
  | .abs _ => .abs
  | .ind _ => .ind

end Sys2Proof
end

