-- ==== Sys2Proof/Machine/Operands.lean ====
section
/-! DEFINITION. Operand resolution (30_encoding.md R71, R73): the effective address of every memory mode, with its pointer
reads, and the byte of a VALUE operand. Index registers are read when the mode is resolved. -/

namespace Sys2Proof.Machine

/-- The effective address of a memory operand, and the state after the mode's pointer reads (R79 to R84, R87, R88). -/
def effAddr (m : Mem) (s : State) : Word × State :=
  match m with
  | .zp b => (zext16 b, s)
  | .zpx b => (zext16 (b + s.x), s)
  | .zpy b => (zext16 (b + s.y), s)
  | .abs w => (w, s)
  | .abx w => (w + zext16 s.x, s)
  | .aby w => (w + zext16 s.y, s)
  | .izx b => readPair (zext16 (b + s.x)) (zext16 (b + s.x + 1)) s
  | .izy b =>
    let p := readPair (zext16 b) (zext16 (b + 1)) s
    (p.1 + zext16 s.y, p.2)

/-- The byte of a VALUE operand: the immediate, or exactly one read of the effective address (R71, R73). -/
def resolveValue (o : Value) (s : State) : Byte × State :=
  match o with
  | .imm b => (b, s)
  | .mem m =>
    let ea := effAddr m s
    memRead ea.1 ea.2

/-- The target of a JMP: the operand (R82), or the pointer's contents, whose high byte comes from the page of the low
byte (R86). -/
def jumpTarget (o : JumpTarget) (s : State) : Word × State :=
  match o with
  | .abs w => (w, s)
  | .ind w => readPair w ((w &&& 0xFF00) ||| zext16 (lo8 (w + 1))) s

end Sys2Proof.Machine
end

