-- ==== Sys2Proof/Machine/Arith.lean ====
section
/-! DEFINITION. ADC, SBC, AND, ORA, EOR (41_arith_logic.md R107 to R111). The operations on a byte are shared with the
compositions of 44_undocumented.md, which must call them (R185). -/

namespace Sys2Proof.Machine

/-- ADC of a byte (R107). -/
def adcByte (value : Byte) (s : State) : State :=
  let q := adc8 s.a value s.c
  updateAZN q.r { s with c := q.cout, v := q.vout }

/-- SBC of a byte (R108). -/
def sbcByte (value : Byte) (s : State) : State :=
  let q := sbc8 s.a value s.c
  updateAZN q.r { s with c := q.cout, v := q.vout }

/-- AND of a byte (R109). -/
def andByte (value : Byte) (s : State) : State := updateAZN (and8 s.a value) s

/-- ORA of a byte (R110). -/
def oraByte (value : Byte) (s : State) : State := updateAZN (or8 s.a value) s

/-- EOR of a byte (R111). -/
def eorByte (value : Byte) (s : State) : State := updateAZN (xor8 s.a value) s

/-- ADC, R107. -/
def execAdc (o : Value) (s : State) : Host.Outcome State Fault Refusal :=
  let r := resolveValue o s
  .next (adcByte r.1 r.2)

/-- SBC, R108. -/
def execSbc (o : Value) (s : State) : Host.Outcome State Fault Refusal :=
  let r := resolveValue o s
  .next (sbcByte r.1 r.2)

/-- AND, R109. -/
def execAnd (o : Value) (s : State) : Host.Outcome State Fault Refusal :=
  let r := resolveValue o s
  .next (andByte r.1 r.2)

/-- ORA, R110. -/
def execOra (o : Value) (s : State) : Host.Outcome State Fault Refusal :=
  let r := resolveValue o s
  .next (oraByte r.1 r.2)

/-- EOR, R111. -/
def execEor (o : Value) (s : State) : Host.Outcome State Fault Refusal :=
  let r := resolveValue o s
  .next (eorByte r.1 r.2)

end Sys2Proof.Machine
end

