-- ==== Sys2Proof/Machine/Branch.lean ====
section
/-! DEFINITION. The conditional branches (42_control_stack.md R135 to R143). PC is the advanced PC (R70). -/

namespace Sys2Proof.Machine

/-- `branch(offset)`, called when the predicate holds (R135): two extra cycles when the target is on another page than the
advanced PC, one when it is on the same page. -/
def branch (offset : Byte) (s : State) : State :=
  let t := s.pc + sext16 offset
  { s with cycles := s.cycles + (if pageOf t != pageOf s.pc then 2 else 1), pc := t }

/-- A conditional branch: a branch not taken changes nothing (R135). -/
def branchIf (taken : Bool) (offset : Byte) (s : State) : State := if taken then branch offset s else s

/-- BCC, R136. -/
def execBcc (offset : Byte) (s : State) : Host.Outcome State Fault Refusal := .next (branchIf (!s.c) offset s)

/-- BCS, R137. -/
def execBcs (offset : Byte) (s : State) : Host.Outcome State Fault Refusal := .next (branchIf s.c offset s)

/-- BEQ, R138. -/
def execBeq (offset : Byte) (s : State) : Host.Outcome State Fault Refusal := .next (branchIf s.z offset s)

/-- BNE, R139. -/
def execBne (offset : Byte) (s : State) : Host.Outcome State Fault Refusal := .next (branchIf (!s.z) offset s)

/-- BMI, R140. -/
def execBmi (offset : Byte) (s : State) : Host.Outcome State Fault Refusal := .next (branchIf s.n offset s)

/-- BPL, R141. -/
def execBpl (offset : Byte) (s : State) : Host.Outcome State Fault Refusal := .next (branchIf (!s.n) offset s)

/-- BVC, R142. -/
def execBvc (offset : Byte) (s : State) : Host.Outcome State Fault Refusal := .next (branchIf (!s.v) offset s)

/-- BVS, R143. -/
def execBvs (offset : Byte) (s : State) : Host.Outcome State Fault Refusal := .next (branchIf s.v offset s)

end Sys2Proof.Machine
end

