-- ==== Sys2Proof/Machine/Compare.lean ====
section
/-! DEFINITION. CMP, CPX, CPY, BIT (41_arith_logic.md R120 to R123). -/

namespace Sys2Proof.Machine

/-- CMP of a byte (R120), shared with DCP (R190). -/
def cmpByte (value : Byte) (s : State) : State := compareBytes s.a value s

/-- CMP, R120. -/
def execCmp (o : Value) (s : State) : Host.Outcome State Fault Refusal :=
  let r := resolveValue o s
  .next (cmpByte r.1 r.2)

/-- CPX, R121. -/
def execCpx (o : Value) (s : State) : Host.Outcome State Fault Refusal :=
  let r := resolveValue o s
  .next (compareBytes r.2.x r.1 r.2)

/-- CPY, R122. -/
def execCpy (o : Value) (s : State) : Host.Outcome State Fault Refusal :=
  let r := resolveValue o s
  .next (compareBytes r.2.y r.1 r.2)

/-- BIT, R123: Z from A and the operand, V and N copied from the operand. -/
def execBit (m : Mem) (s : State) : Host.Outcome State Fault Refusal :=
  let ea := effAddr m s
  let r := memRead ea.1 ea.2
  .next { r.2 with z := (r.2.a &&& r.1) == 0, v := r.1.getLsbD 6, n := r.1.getLsbD 7 }

end Sys2Proof.Machine
end

