-- ==== Sys2Proof/Machine/FlagOps.lean ====
section
/-! DEFINITION. The flag set and clear instructions, and NOP (43_flags_transfer_loadstore.md R160 to R166, R179). -/

namespace Sys2Proof.Machine

/-- CLC, R160. -/
def execClc (s : State) : Host.Outcome State Fault Refusal := .next { s with c := false }

/-- CLD, R161. -/
def execCld (s : State) : Host.Outcome State Fault Refusal := .next { s with d := false }

/-- CLI, R162. -/
def execCli (s : State) : Host.Outcome State Fault Refusal := .next { s with i := false }

/-- CLV, R163. -/
def execClv (s : State) : Host.Outcome State Fault Refusal := .next { s with v := false }

/-- SEC, R164. -/
def execSec (s : State) : Host.Outcome State Fault Refusal := .next { s with c := true }

/-- SED, R165. -/
def execSed (s : State) : Host.Outcome State Fault Refusal := .next { s with d := true }

/-- SEI, R166. -/
def execSei (s : State) : Host.Outcome State Fault Refusal := .next { s with i := true }

/-- NOP, R179: the fetch and the advance of PC are the dispatcher's. -/
def execNop (s : State) : Host.Outcome State Fault Refusal := .next s

end Sys2Proof.Machine
end

