-- ==== Sys2Proof/Machine/IncDec.lean ====
section
/-! DEFINITION. INC, DEC, INX, INY, DEX, DEY (41_arith_logic.md R124 to R129). -/

namespace Sys2Proof.Machine

/-- INC at an address (R124), shared with ISC (R191). -/
def incMem (ea : Word) (s : State) : State :=
  let m := memRead ea s
  updateZN (m.1 + 1) (memWrite ea (m.1 + 1) m.2)

/-- DEC at an address (R125). -/
def decMem (ea : Word) (s : State) : State :=
  let m := memRead ea s
  updateZN (m.1 - 1) (memWrite ea (m.1 - 1) m.2)

/-- INC, R124. -/
def execInc (m : Mem) (s : State) : Host.Outcome State Fault Refusal :=
  let ea := effAddr m s
  .next (incMem ea.1 ea.2)

/-- DEC, R125. -/
def execDec (m : Mem) (s : State) : Host.Outcome State Fault Refusal :=
  let ea := effAddr m s
  .next (decMem ea.1 ea.2)

/-- INX, R126. -/
def execInx (s : State) : Host.Outcome State Fault Refusal := .next (updateZN (s.x + 1) { s with x := s.x + 1 })

/-- INY, R127. -/
def execIny (s : State) : Host.Outcome State Fault Refusal := .next (updateZN (s.y + 1) { s with y := s.y + 1 })

/-- DEX, R128. -/
def execDex (s : State) : Host.Outcome State Fault Refusal := .next (updateZN (s.x - 1) { s with x := s.x - 1 })

/-- DEY, R129. -/
def execDey (s : State) : Host.Outcome State Fault Refusal := .next (updateZN (s.y - 1) { s with y := s.y - 1 })

end Sys2Proof.Machine
end

