-- ==== Sys2Proof/Machine/Jump.lean ====
section
/-! DEFINITION. JMP, JSR, RTS, BRK, RTI (42_control_stack.md R144 to R148). -/

namespace Sys2Proof.Machine

/-- JMP, R144. -/
def execJmp (o : JumpTarget) (s : State) : Host.Outcome State Fault Refusal :=
  let t := jumpTarget o s
  .next { t.2 with pc := t.1 }

/-- JSR, R145: it pushes the address of its own last byte. -/
def execJsr (target : Word) (s : State) : Host.Outcome State Fault Refusal :=
  .next { push16 (s.pc - 1) s with pc := target }

/-- RTS, R146. -/
def execRts (s : State) : Host.Outcome State Fault Refusal :=
  let r := pop16 s
  .next { r.2 with pc := r.1 + 1 }

/-- BRK, R147. -/
def execBrk (s : State) : Host.Outcome State Fault Refusal := .next (takeBreak s)

/-- RTI, R148. -/
def execRti (s : State) : Host.Outcome State Fault Refusal := .next (returnFromBreak s)

end Sys2Proof.Machine
end

