-- ==== Sys2Proof/Machine/Shift.lean ====
section
/-! DEFINITION. ASL, LSR, ROL, ROR in their accumulator and memory forms (41_arith_logic.md R112 to R119). The rotates
capture C before anything else. -/

namespace Sys2Proof.Machine

/-- The accumulator form of a shift: C is the bit shifted out, A the result (R112, R114, R116, R118). -/
def shiftAcc (f : Byte → ShiftResult) (s : State) : State :=
  let q := f s.a
  updateAZN q.r { s with c := q.cout }

/-- The memory form of a shift: one read and one write of the address; A is left alone (R113, R115, R117, R119). -/
def shiftMem (f : Byte → ShiftResult) (ea : Word) (s : State) : State :=
  let m := memRead ea s
  let q := f m.1
  updateZN q.r (memWrite ea q.r { m.2 with c := q.cout })

/-- ASL m at an address (R113). -/
def aslMem (ea : Word) (s : State) : State := shiftMem (fun v => shl v false) ea s

/-- LSR m at an address (R115). -/
def lsrMem (ea : Word) (s : State) : State := shiftMem (fun v => shr v false) ea s

/-- ROL m at an address (R117). -/
def rolMem (ea : Word) (s : State) : State := shiftMem (fun v => shl v s.c) ea s

/-- ROR m at an address (R119). -/
def rorMem (ea : Word) (s : State) : State := shiftMem (fun v => shr v s.c) ea s

/-- ASL, R112 and R113. -/
def execAsl (o : ShiftTarget) (s : State) : Host.Outcome State Fault Refusal :=
  match o with
  | .acc => .next (shiftAcc (fun v => shl v false) s)
  | .mem m =>
    let ea := effAddr m s
    .next (aslMem ea.1 ea.2)

/-- LSR, R114 and R115. -/
def execLsr (o : ShiftTarget) (s : State) : Host.Outcome State Fault Refusal :=
  match o with
  | .acc => .next (shiftAcc (fun v => shr v false) s)
  | .mem m =>
    let ea := effAddr m s
    .next (lsrMem ea.1 ea.2)

/-- ROL, R116 and R117. -/
def execRol (o : ShiftTarget) (s : State) : Host.Outcome State Fault Refusal :=
  match o with
  | .acc => .next (shiftAcc (fun v => shl v s.c) s)
  | .mem m =>
    let ea := effAddr m s
    .next (rolMem ea.1 ea.2)

/-- ROR, R118 and R119. -/
def execRor (o : ShiftTarget) (s : State) : Host.Outcome State Fault Refusal :=
  match o with
  | .acc => .next (shiftAcc (fun v => shr v s.c) s)
  | .mem m =>
    let ea := effAddr m s
    .next (rorMem ea.1 ea.2)

end Sys2Proof.Machine
end

