-- ==== Sys2Proof/Machine/Stack.lean ====
section
/-! DEFINITION. PHA, PHP, PLA, PLP (42_control_stack.md R149 to R152). -/

namespace Sys2Proof.Machine

/-- PHA, R149. -/
def execPha (s : State) : Host.Outcome State Fault Refusal := .next (push s.a s)

/-- PHP, R150. -/
def execPhp (s : State) : Host.Outcome State Fault Refusal := .next (push (pushedStatus s) s)

/-- PLA, R151. -/
def execPla (s : State) : Host.Outcome State Fault Refusal :=
  let r := pop s
  .next (updateAZN r.1 r.2)

/-- PLP, R152. -/
def execPlp (s : State) : Host.Outcome State Fault Refusal :=
  let r := pop s
  .next (writeStatus r.1 r.2)

end Sys2Proof.Machine
end

