-- ==== Sys2Proof/Machine/Transfer.lean ====
section
/-! DEFINITION. Register transfers, loads and stores (43_flags_transfer_loadstore.md R167 to R178). -/

namespace Sys2Proof.Machine

/-- TAX, R167. -/
def execTax (s : State) : Host.Outcome State Fault Refusal := .next (updateZN s.a { s with x := s.a })

/-- TAY, R168. -/
def execTay (s : State) : Host.Outcome State Fault Refusal := .next (updateZN s.a { s with y := s.a })

/-- TSX, R169. -/
def execTsx (s : State) : Host.Outcome State Fault Refusal := .next (updateZN s.sp { s with x := s.sp })

/-- TXA, R170. -/
def execTxa (s : State) : Host.Outcome State Fault Refusal := .next (updateAZN s.x s)

/-- TXS, R171: no flag changes. -/
def execTxs (s : State) : Host.Outcome State Fault Refusal := .next { s with sp := s.x }

/-- TYA, R172. -/
def execTya (s : State) : Host.Outcome State Fault Refusal := .next (updateAZN s.y s)

/-- LDA, R173. -/
def execLda (o : Value) (s : State) : Host.Outcome State Fault Refusal :=
  let r := resolveValue o s
  .next (updateAZN r.1 r.2)

/-- LDX, R174. -/
def execLdx (o : Value) (s : State) : Host.Outcome State Fault Refusal :=
  let r := resolveValue o s
  .next (updateZN r.1 { r.2 with x := r.1 })

/-- LDY, R175. -/
def execLdy (o : Value) (s : State) : Host.Outcome State Fault Refusal :=
  let r := resolveValue o s
  .next (updateZN r.1 { r.2 with y := r.1 })

/-- STA, R176. -/
def execSta (m : Mem) (s : State) : Host.Outcome State Fault Refusal :=
  let ea := effAddr m s
  .next (memWrite ea.1 ea.2.a ea.2)

/-- STX, R177. -/
def execStx (m : Mem) (s : State) : Host.Outcome State Fault Refusal :=
  let ea := effAddr m s
  .next (memWrite ea.1 ea.2.x ea.2)

/-- STY, R178. -/
def execSty (m : Mem) (s : State) : Host.Outcome State Fault Refusal :=
  let ea := effAddr m s
  .next (memWrite ea.1 ea.2.y ea.2)

end Sys2Proof.Machine
end

