-- ==== Sys2Proof/Machine/Undocumented.lean ====
section
/-! DEFINITION. The undocumented opcodes (44_undocumented.md R185 to R197) and the unassigned bytes (30_encoding.md R72).
Each composition calls the two primitives it is made of and reads the address again between them (R185). -/

namespace Sys2Proof.Machine

/-- A composition (R185): the first primitive at the address, a new read of the address, the second primitive on the byte
that read gives. -/
def compose (first : Word → State → State) (second : Byte → State → State) (m : Mem) (s : State) : State :=
  let ea := effAddr m s
  let r := memRead ea.1 (first ea.1 ea.2)
  second r.1 r.2

/-- The first half of DCP (R190): decrement memory with "no flag update of its own". -/
def decMemQuiet (ea : Word) (s : State) : State :=
  let m := memRead ea s
  memWrite ea (m.1 - 1) m.2

/-- SLO, R186. -/
def execSlo (m : Mem) (s : State) : Host.Outcome State Fault Refusal := .next (compose aslMem oraByte m s)

/-- SRE, R187. -/
def execSre (m : Mem) (s : State) : Host.Outcome State Fault Refusal := .next (compose lsrMem eorByte m s)

/-- RLA, R188. -/
def execRla (m : Mem) (s : State) : Host.Outcome State Fault Refusal := .next (compose rolMem andByte m s)

/-- RRA, R189: the carry that ROR writes is the carry that ADC adds. -/
def execRra (m : Mem) (s : State) : Host.Outcome State Fault Refusal := .next (compose rorMem adcByte m s)

/-- DCP, R190. -/
def execDcp (m : Mem) (s : State) : Host.Outcome State Fault Refusal := .next (compose decMemQuiet cmpByte m s)

/-- ISC, R191. -/
def execIsc (m : Mem) (s : State) : Host.Outcome State Fault Refusal := .next (compose incMem sbcByte m s)

/-- LAX, R192: one read. -/
def execLax (m : Mem) (s : State) : Host.Outcome State Fault Refusal :=
  let ea := effAddr m s
  let r := memRead ea.1 ea.2
  .next (updateZN r.1 { r.2 with a := r.1, x := r.1 })

/-- SAX, R193: no flag changes. -/
def execSax (m : Mem) (s : State) : Host.Outcome State Fault Refusal :=
  let ea := effAddr m s
  .next (memWrite ea.1 (ea.2.a &&& ea.2.x) ea.2)

/-- DOP, R194: the operand is resolved, which in the memory modes is one read, and the byte is discarded (R73). -/
def execDop (o : Value) (s : State) : Host.Outcome State Fault Refusal := .next (resolveValue o s).2

/-- TOP, R195: the operand is resolved, which is one read, and the byte is discarded (R73). -/
def execTop (o : Value) (s : State) : Host.Outcome State Fault Refusal := .next (resolveValue o s).2

/-- NOP*, R196. -/
def execNopU (s : State) : Host.Outcome State Fault Refusal := .next s

/-- SBC*, R197. -/
def execSbcU (b : Byte) (s : State) : Host.Outcome State Fault Refusal := .next (sbcByte b s)

/-- UNASSIGNED, R72: the byte has no meaning in the spec. `Machine/HostActions.lean` gives the state it leaves. -/
def execUnassigned (opcode : Byte) (_ : State) : Host.Outcome State Fault Refusal := .fault (.unassignedOpcode opcode)

end Sys2Proof.Machine
end

