-- ==== Sys2Proof/WellFormed.lean ====
section
/-! DEFINITION. Which instructions exist: the mode matrix of 30_encoding.md R95, and the opcode bytes of the forms that
several bytes share (R90, R194, R195, R196). Everything else about an instruction is fixed by its type. -/

namespace Sys2Proof

/-- The row "ADC, AND, CMP, EOR, LDA, ORA, SBC" of R95. -/
def modesAlu : List Mode := [.imm, .zp, .zpx, .abs, .abx, .aby, .izx, .izy]
/-- The row "STA" of R95, and the row "SLO, SRE, RLA, RRA, DCP, ISC". -/
def modesStore : List Mode := [.zp, .zpx, .abs, .abx, .aby, .izx, .izy]
/-- The rows "ASL, LSR, ROL, ROR" (their memory modes) and "INC, DEC" of R95. -/
def modesRmw : List Mode := [.zp, .zpx, .abs, .abx]

/-- The DOP opcode bytes of each mode (R194). -/
def dopBytes : Mode → List Byte
  | .zp => [0x04, 0x44, 0x64]
  | .zpx => [0x14, 0x34, 0x54, 0x74, 0xD4, 0xF4]
  | .imm => [0x80, 0x82, 0x89, 0xC2, 0xE2]
  | _ => []

/-- The TOP opcode bytes of each mode (R195). -/
def topBytes : Mode → List Byte
  | .abs => [0x0C]
  | .abx => [0x1C, 0x3C, 0x5C, 0x7C, 0xDC, 0xFC]
  | _ => []

/-- The one-byte undocumented no-operations (R196). -/
def nopBytes : List Byte := [0x1A, 0x3A, 0x5A, 0x7A, 0xDA, 0xFA]

/-- The unassigned opcode bytes (R90). -/
def unassignedBytes : List Byte :=
  [0x02, 0x12, 0x22, 0x32, 0x42, 0x52, 0x62, 0x72, 0x92, 0xB2, 0xD2, 0xF2] ++
  [0x0B, 0x2B, 0x4B, 0x6B, 0x8B, 0x93, 0x9F, 0x9B, 0x9C, 0x9E, 0xAB, 0xBB, 0xCB]

/-- The instruction is a row of the dispatch map: its mode is one R95 gives it, and its opcode byte, where it carries
one, is one the spec lists for that form. -/
def wellFormed : Instr → Bool
  | .adc o => modesAlu.contains o.mode
  | .sbc o => modesAlu.contains o.mode
  | .and o => modesAlu.contains o.mode
  | .ora o => modesAlu.contains o.mode
  | .eor o => modesAlu.contains o.mode
  | .cmp o => modesAlu.contains o.mode
  | .lda o => modesAlu.contains o.mode
  | .sta m => modesStore.contains m.mode
  | .asl o => (.acc :: modesRmw).contains o.mode
  | .lsr o => (.acc :: modesRmw).contains o.mode
  | .rol o => (.acc :: modesRmw).contains o.mode
  | .ror o => (.acc :: modesRmw).contains o.mode
  | .inc m => modesRmw.contains m.mode
  | .dec m => modesRmw.contains m.mode
  | .ldx o => [Mode.imm, .zp, .zpy, .abs, .aby].contains o.mode
  | .ldy o => [Mode.imm, .zp, .zpx, .abs, .abx].contains o.mode
  | .stx m => [Mode.zp, .zpy, .abs].contains m.mode
  | .sty m => [Mode.zp, .zpx, .abs].contains m.mode
  | .cpx o => [Mode.imm, .zp, .abs].contains o.mode
  | .cpy o => [Mode.imm, .zp, .abs].contains o.mode
  | .bit m => [Mode.zp, .abs].contains m.mode
  | .slo m => modesStore.contains m.mode
  | .sre m => modesStore.contains m.mode
  | .rla m => modesStore.contains m.mode
  | .rra m => modesStore.contains m.mode
  | .dcp m => modesStore.contains m.mode
  | .isc m => modesStore.contains m.mode
  | .lax m => [Mode.zp, .zpy, .abs, .aby, .izx, .izy].contains m.mode
  | .sax m => [Mode.zp, .zpy, .abs, .izx].contains m.mode
  | .dop op o => (dopBytes o.mode).contains op
  | .top op o => (topBytes o.mode).contains op
  | .nopU op => nopBytes.contains op
  | .unassigned op => unassignedBytes.contains op
  | .inx => true
  | .iny => true
  | .dex => true
  | .dey => true
  | .bcc _ => true
  | .bcs _ => true
  | .beq _ => true
  | .bne _ => true
  | .bmi _ => true
  | .bpl _ => true
  | .bvc _ => true
  | .bvs _ => true
  | .jmp _ => true
  | .jsr _ => true
  | .rts => true
  | .brk => true
  | .rti => true
  | .pha => true
  | .php => true
  | .pla => true
  | .plp => true
  | .clc => true
  | .cld => true
  | .cli => true
  | .clv => true
  | .sec => true
  | .sed => true
  | .sei => true
  | .tax => true
  | .tay => true
  | .tsx => true
  | .txa => true
  | .txs => true
  | .tya => true
  | .nop => true
  | .sbcU _ => true

end Sys2Proof
end

