-- ==== Sys2Proof/Decode.lean ====
section
/-! DEFINITION. The dispatch ROM (30_encoding.md R67, R89), the decoder built on it, and the encoder, which is written
from the "Encoding" lines of the instruction rules R107 to R197 and not from the ROM. Decoding is total on any bytes:
all 256 opcode bytes have an entry, and a byte list that is too short is rejected by name. -/

namespace Sys2Proof
open Machine

/-- The operations of the dispatch ROM, one for each mnemonic of the opcode table (R67). -/
inductive Op where
  | adc | sbc | and | ora | eor | asl | lsr | rol | ror | cmp | cpx | cpy
  | bit | inc | dec | inx | iny | dex | dey | bcc | bcs | beq | bne | bmi
  | bpl | bvc | bvs | jmp | jsr | rts | brk | rti | pha | php | pla | plp
  | clc | cld | cli | clv | sec | sed | sei | tax | tay | tsx | txa | txs
  | tya | lda | ldx | ldy | sta | stx | sty | nop | slo | sre | rla | rra
  | dcp | isc | lax | sax | dop | top | nopU | sbcU | unassigned
  deriving DecidableEq, Repr

/-- The operand kinds (R68); `none` is the kind of an unassigned entry. -/
inductive Kind where
  | value | address | accumulator | relative | implied | none
  deriving DecidableEq, Repr

/-- An entry of the dispatch ROM (R67). Its length and kind follow from the operation and the mode. An unassigned byte
has the operation `unassigned` and, having no operand bytes, stands under the mode `imp`. -/
structure Entry where
  op   : Op
  mode : Mode
  deriving DecidableEq, Repr

/-- The length of an instruction in bytes, by mode (R69, R74). BRK is `imp`: one byte. -/
def Mode.length : Mode → Nat
  | .imp => 1
  | .acc => 1
  | .imm => 2
  | .zp => 2
  | .zpx => 2
  | .zpy => 2
  | .izx => 2
  | .izy => 2
  | .rel => 2
  | .abs => 3
  | .abx => 3
  | .aby => 3
  | .ind => 3

/-- The operand kind of an entry (R68). -/
def Entry.kind (e : Entry) : Kind :=
  if e.op = .unassigned then .none
  else if e.mode = .acc then .accumulator
  else if e.mode = .rel then .relative
  else if e.mode = .imp then .implied
  else if e.op ∈ [.adc, .sbc, .sbcU, .and, .ora, .eor, .cmp, .cpx, .cpy, .lda, .ldx, .ldy, .dop, .top] then .value
  else .address

/-- Row 0x of R89. -/
def romRow0 : List Entry :=
  [⟨.brk, .imp⟩, ⟨.ora, .izx⟩, ⟨.unassigned, .imp⟩, ⟨.slo, .izx⟩, ⟨.dop, .zp⟩, ⟨.ora, .zp⟩, ⟨.asl, .zp⟩, ⟨.slo, .zp⟩,
   ⟨.php, .imp⟩, ⟨.ora, .imm⟩, ⟨.asl, .acc⟩, ⟨.unassigned, .imp⟩, ⟨.top, .abs⟩, ⟨.ora, .abs⟩, ⟨.asl, .abs⟩, ⟨.slo, .abs⟩]

/-- Row 1x of R89. -/
def romRow1 : List Entry :=
  [⟨.bpl, .rel⟩, ⟨.ora, .izy⟩, ⟨.unassigned, .imp⟩, ⟨.slo, .izy⟩, ⟨.dop, .zpx⟩, ⟨.ora, .zpx⟩, ⟨.asl, .zpx⟩, ⟨.slo, .zpx⟩,
   ⟨.clc, .imp⟩, ⟨.ora, .aby⟩, ⟨.nopU, .imp⟩, ⟨.slo, .aby⟩, ⟨.top, .abx⟩, ⟨.ora, .abx⟩, ⟨.asl, .abx⟩, ⟨.slo, .abx⟩]

/-- Row 2x of R89. -/
def romRow2 : List Entry :=
  [⟨.jsr, .abs⟩, ⟨.and, .izx⟩, ⟨.unassigned, .imp⟩, ⟨.rla, .izx⟩, ⟨.bit, .zp⟩, ⟨.and, .zp⟩, ⟨.rol, .zp⟩, ⟨.rla, .zp⟩,
   ⟨.plp, .imp⟩, ⟨.and, .imm⟩, ⟨.rol, .acc⟩, ⟨.unassigned, .imp⟩, ⟨.bit, .abs⟩, ⟨.and, .abs⟩, ⟨.rol, .abs⟩, ⟨.rla, .abs⟩]

/-- Row 3x of R89. -/
def romRow3 : List Entry :=
  [⟨.bmi, .rel⟩, ⟨.and, .izy⟩, ⟨.unassigned, .imp⟩, ⟨.rla, .izy⟩, ⟨.dop, .zpx⟩, ⟨.and, .zpx⟩, ⟨.rol, .zpx⟩, ⟨.rla, .zpx⟩,
   ⟨.sec, .imp⟩, ⟨.and, .aby⟩, ⟨.nopU, .imp⟩, ⟨.rla, .aby⟩, ⟨.top, .abx⟩, ⟨.and, .abx⟩, ⟨.rol, .abx⟩, ⟨.rla, .abx⟩]

/-- Row 4x of R89. -/
def romRow4 : List Entry :=
  [⟨.rti, .imp⟩, ⟨.eor, .izx⟩, ⟨.unassigned, .imp⟩, ⟨.sre, .izx⟩, ⟨.dop, .zp⟩, ⟨.eor, .zp⟩, ⟨.lsr, .zp⟩, ⟨.sre, .zp⟩,
   ⟨.pha, .imp⟩, ⟨.eor, .imm⟩, ⟨.lsr, .acc⟩, ⟨.unassigned, .imp⟩, ⟨.jmp, .abs⟩, ⟨.eor, .abs⟩, ⟨.lsr, .abs⟩, ⟨.sre, .abs⟩]

/-- Row 5x of R89. -/
def romRow5 : List Entry :=
  [⟨.bvc, .rel⟩, ⟨.eor, .izy⟩, ⟨.unassigned, .imp⟩, ⟨.sre, .izy⟩, ⟨.dop, .zpx⟩, ⟨.eor, .zpx⟩, ⟨.lsr, .zpx⟩, ⟨.sre, .zpx⟩,
   ⟨.cli, .imp⟩, ⟨.eor, .aby⟩, ⟨.nopU, .imp⟩, ⟨.sre, .aby⟩, ⟨.top, .abx⟩, ⟨.eor, .abx⟩, ⟨.lsr, .abx⟩, ⟨.sre, .abx⟩]

/-- Row 6x of R89. -/
def romRow6 : List Entry :=
  [⟨.rts, .imp⟩, ⟨.adc, .izx⟩, ⟨.unassigned, .imp⟩, ⟨.rra, .izx⟩, ⟨.dop, .zp⟩, ⟨.adc, .zp⟩, ⟨.ror, .zp⟩, ⟨.rra, .zp⟩,
   ⟨.pla, .imp⟩, ⟨.adc, .imm⟩, ⟨.ror, .acc⟩, ⟨.unassigned, .imp⟩, ⟨.jmp, .ind⟩, ⟨.adc, .abs⟩, ⟨.ror, .abs⟩, ⟨.rra, .abs⟩]

/-- Row 7x of R89. -/
def romRow7 : List Entry :=
  [⟨.bvs, .rel⟩, ⟨.adc, .izy⟩, ⟨.unassigned, .imp⟩, ⟨.rra, .izy⟩, ⟨.dop, .zpx⟩, ⟨.adc, .zpx⟩, ⟨.ror, .zpx⟩, ⟨.rra, .zpx⟩,
   ⟨.sei, .imp⟩, ⟨.adc, .aby⟩, ⟨.nopU, .imp⟩, ⟨.rra, .aby⟩, ⟨.top, .abx⟩, ⟨.adc, .abx⟩, ⟨.ror, .abx⟩, ⟨.rra, .abx⟩]

/-- Row 8x of R89. -/
def romRow8 : List Entry :=
  [⟨.dop, .imm⟩, ⟨.sta, .izx⟩, ⟨.dop, .imm⟩, ⟨.sax, .izx⟩, ⟨.sty, .zp⟩, ⟨.sta, .zp⟩, ⟨.stx, .zp⟩, ⟨.sax, .zp⟩,
   ⟨.dey, .imp⟩, ⟨.dop, .imm⟩, ⟨.txa, .imp⟩, ⟨.unassigned, .imp⟩, ⟨.sty, .abs⟩, ⟨.sta, .abs⟩, ⟨.stx, .abs⟩, ⟨.sax, .abs⟩]

/-- Row 9x of R89. -/
def romRow9 : List Entry :=
  [⟨.bcc, .rel⟩, ⟨.sta, .izy⟩, ⟨.unassigned, .imp⟩, ⟨.unassigned, .imp⟩, ⟨.sty, .zpx⟩, ⟨.sta, .zpx⟩, ⟨.stx, .zpy⟩, ⟨.sax, .zpy⟩,
   ⟨.tya, .imp⟩, ⟨.sta, .aby⟩, ⟨.txs, .imp⟩, ⟨.unassigned, .imp⟩, ⟨.unassigned, .imp⟩, ⟨.sta, .abx⟩, ⟨.unassigned, .imp⟩, ⟨.unassigned, .imp⟩]

/-- Row Ax of R89. -/
def romRowA : List Entry :=
  [⟨.ldy, .imm⟩, ⟨.lda, .izx⟩, ⟨.ldx, .imm⟩, ⟨.lax, .izx⟩, ⟨.ldy, .zp⟩, ⟨.lda, .zp⟩, ⟨.ldx, .zp⟩, ⟨.lax, .zp⟩,
   ⟨.tay, .imp⟩, ⟨.lda, .imm⟩, ⟨.tax, .imp⟩, ⟨.unassigned, .imp⟩, ⟨.ldy, .abs⟩, ⟨.lda, .abs⟩, ⟨.ldx, .abs⟩, ⟨.lax, .abs⟩]

/-- Row Bx of R89. -/
def romRowB : List Entry :=
  [⟨.bcs, .rel⟩, ⟨.lda, .izy⟩, ⟨.unassigned, .imp⟩, ⟨.lax, .izy⟩, ⟨.ldy, .zpx⟩, ⟨.lda, .zpx⟩, ⟨.ldx, .zpy⟩, ⟨.lax, .zpy⟩,
   ⟨.clv, .imp⟩, ⟨.lda, .aby⟩, ⟨.tsx, .imp⟩, ⟨.unassigned, .imp⟩, ⟨.ldy, .abx⟩, ⟨.lda, .abx⟩, ⟨.ldx, .aby⟩, ⟨.lax, .aby⟩]

/-- Row Cx of R89. -/
def romRowC : List Entry :=
  [⟨.cpy, .imm⟩, ⟨.cmp, .izx⟩, ⟨.dop, .imm⟩, ⟨.dcp, .izx⟩, ⟨.cpy, .zp⟩, ⟨.cmp, .zp⟩, ⟨.dec, .zp⟩, ⟨.dcp, .zp⟩,
   ⟨.iny, .imp⟩, ⟨.cmp, .imm⟩, ⟨.dex, .imp⟩, ⟨.unassigned, .imp⟩, ⟨.cpy, .abs⟩, ⟨.cmp, .abs⟩, ⟨.dec, .abs⟩, ⟨.dcp, .abs⟩]

/-- Row Dx of R89. -/
def romRowD : List Entry :=
  [⟨.bne, .rel⟩, ⟨.cmp, .izy⟩, ⟨.unassigned, .imp⟩, ⟨.dcp, .izy⟩, ⟨.dop, .zpx⟩, ⟨.cmp, .zpx⟩, ⟨.dec, .zpx⟩, ⟨.dcp, .zpx⟩,
   ⟨.cld, .imp⟩, ⟨.cmp, .aby⟩, ⟨.nopU, .imp⟩, ⟨.dcp, .aby⟩, ⟨.top, .abx⟩, ⟨.cmp, .abx⟩, ⟨.dec, .abx⟩, ⟨.dcp, .abx⟩]

/-- Row Ex of R89. -/
def romRowE : List Entry :=
  [⟨.cpx, .imm⟩, ⟨.sbc, .izx⟩, ⟨.dop, .imm⟩, ⟨.isc, .izx⟩, ⟨.cpx, .zp⟩, ⟨.sbc, .zp⟩, ⟨.inc, .zp⟩, ⟨.isc, .zp⟩,
   ⟨.inx, .imp⟩, ⟨.sbc, .imm⟩, ⟨.nop, .imp⟩, ⟨.sbcU, .imm⟩, ⟨.cpx, .abs⟩, ⟨.sbc, .abs⟩, ⟨.inc, .abs⟩, ⟨.isc, .abs⟩]

/-- Row Fx of R89. -/
def romRowF : List Entry :=
  [⟨.beq, .rel⟩, ⟨.sbc, .izy⟩, ⟨.unassigned, .imp⟩, ⟨.isc, .izy⟩, ⟨.dop, .zpx⟩, ⟨.sbc, .zpx⟩, ⟨.inc, .zpx⟩, ⟨.isc, .zpx⟩,
   ⟨.sed, .imp⟩, ⟨.sbc, .aby⟩, ⟨.nopU, .imp⟩, ⟨.isc, .aby⟩, ⟨.top, .abx⟩, ⟨.sbc, .abx⟩, ⟨.inc, .abx⟩, ⟨.isc, .abx⟩]

/-- The dispatch ROM: the 256 cells of R89, by opcode byte. -/
def rom : List Entry :=
  romRow0 ++ romRow1 ++ romRow2 ++ romRow3 ++
  romRow4 ++ romRow5 ++ romRow6 ++ romRow7 ++
  romRow8 ++ romRow9 ++ romRowA ++ romRowB ++
  romRowC ++ romRowD ++ romRowE ++ romRowF

/-- `DISPATCH[op]` (R70). -/
def dispatch (opcode : Byte) : Entry := rom.getD opcode.toNat ⟨.unassigned, .imp⟩

/-- The opcode bytes of an operation with their modes, in byte order: its rows of the ROM. -/
def romRows (op : Op) : List (Byte × Mode) :=
  ((List.range 256).map fun k => (BitVec.ofNat 8 k, dispatch (BitVec.ofNat 8 k))).filterMap
    fun p => if p.2.op = op then some (p.1, p.2.mode) else none

/-- A memory operand from the operand bytes (R75). -/
def memOperand (m : Mode) (b1 b2 : Byte) : Mem :=
  match m with
  | .zp => .zp b1
  | .zpx => .zpx b1
  | .zpy => .zpy b1
  | .abx => .abx (ofHiLo b2 b1)
  | .aby => .aby (ofHiLo b2 b1)
  | .izx => .izx b1
  | .izy => .izy b1
  | _ => .abs (ofHiLo b2 b1)

/-- A VALUE operand from the operand bytes (R71, R78). -/
def valueOperand (m : Mode) (b1 b2 : Byte) : Value :=
  if m = .imm then .imm b1 else .mem (memOperand m b1 b2)

/-- The operand of a shift from the operand bytes (R71, R77). -/
def shiftOperand (m : Mode) (b1 b2 : Byte) : ShiftTarget :=
  if m = .acc then .acc else .mem (memOperand m b1 b2)

/-- The operand of JMP from the operand bytes (R82, R86). -/
def jumpOperand (m : Mode) (b1 b2 : Byte) : JumpTarget :=
  if m = .ind then .ind (ofHiLo b2 b1) else .abs (ofHiLo b2 b1)

/-- The instruction of a ROM entry with its operand bytes; bytes past the entry's length are not looked at (R71, R75). -/
def assemble (opcode : Byte) (op : Op) (m : Mode) (b1 b2 : Byte) : Instr :=
  match op with
  | .adc => .adc (valueOperand m b1 b2)
  | .sbc => .sbc (valueOperand m b1 b2)
  | .and => .and (valueOperand m b1 b2)
  | .ora => .ora (valueOperand m b1 b2)
  | .eor => .eor (valueOperand m b1 b2)
  | .asl => .asl (shiftOperand m b1 b2)
  | .lsr => .lsr (shiftOperand m b1 b2)
  | .rol => .rol (shiftOperand m b1 b2)
  | .ror => .ror (shiftOperand m b1 b2)
  | .cmp => .cmp (valueOperand m b1 b2)
  | .cpx => .cpx (valueOperand m b1 b2)
  | .cpy => .cpy (valueOperand m b1 b2)
  | .bit => .bit (memOperand m b1 b2)
  | .inc => .inc (memOperand m b1 b2)
  | .dec => .dec (memOperand m b1 b2)
  | .inx => .inx
  | .iny => .iny
  | .dex => .dex
  | .dey => .dey
  | .bcc => .bcc b1
  | .bcs => .bcs b1
  | .beq => .beq b1
  | .bne => .bne b1
  | .bmi => .bmi b1
  | .bpl => .bpl b1
  | .bvc => .bvc b1
  | .bvs => .bvs b1
  | .jmp => .jmp (jumpOperand m b1 b2)
  | .jsr => .jsr (ofHiLo b2 b1)
  | .rts => .rts
  | .brk => .brk
  | .rti => .rti
  | .pha => .pha
  | .php => .php
  | .pla => .pla
  | .plp => .plp
  | .clc => .clc
  | .cld => .cld
  | .cli => .cli
  | .clv => .clv
  | .sec => .sec
  | .sed => .sed
  | .sei => .sei
  | .tax => .tax
  | .tay => .tay
  | .tsx => .tsx
  | .txa => .txa
  | .txs => .txs
  | .tya => .tya
  | .lda => .lda (valueOperand m b1 b2)
  | .ldx => .ldx (valueOperand m b1 b2)
  | .ldy => .ldy (valueOperand m b1 b2)
  | .sta => .sta (memOperand m b1 b2)
  | .stx => .stx (memOperand m b1 b2)
  | .sty => .sty (memOperand m b1 b2)
  | .nop => .nop
  | .slo => .slo (memOperand m b1 b2)
  | .sre => .sre (memOperand m b1 b2)
  | .rla => .rla (memOperand m b1 b2)
  | .rra => .rra (memOperand m b1 b2)
  | .dcp => .dcp (memOperand m b1 b2)
  | .isc => .isc (memOperand m b1 b2)
  | .lax => .lax (memOperand m b1 b2)
  | .sax => .sax (memOperand m b1 b2)
  | .dop => .dop opcode (valueOperand m b1 b2)
  | .top => .top opcode (valueOperand m b1 b2)
  | .nopU => .nopU opcode
  | .sbcU => .sbcU b1
  | .unassigned => .unassigned opcode

/-- The instruction that begins with `opcode` and whose operand bytes, as far as it has any, are `b1` and `b2`. -/
def decodeWith (opcode b1 b2 : Byte) : Instr :=
  assemble opcode (dispatch opcode).op (dispatch opcode).mode b1 b2

/-- The length of the instruction that begins with `opcode`: the opcode byte alone tells it (R65, R74). -/
def lengthOf (opcode : Byte) : Nat := (dispatch opcode).mode.length

/-- Why a list of bytes is not an instruction. -/
inductive DecodeError where
  /-- There is no byte at all. -/
  | noOpcode
  /-- The list ends before the operand bytes that the opcode's length asks for. -/
  | operandMissing (opcode : Byte)
  deriving DecidableEq, Repr

/-- The decoder: the first instruction of a list of bytes, and the bytes after it. -/
def decode : List Byte → Except DecodeError (Instr × List Byte)
  | [] => .error .noOpcode
  | opcode :: rest =>
    match lengthOf opcode, rest with
    | 1, rest => .ok (decodeWith opcode 0 0, rest)
    | 2, b1 :: rest => .ok (decodeWith opcode b1 0, rest)
    | 3, b1 :: b2 :: rest => .ok (decodeWith opcode b1 b2, rest)
    | _, _ => .error (.operandMissing opcode)

/-- Byte `k` of an instruction word that is numbered as spec/opcode_table.json numbers it (R65): bits 8k+7 to 8k. -/
def wordByte (w k : Nat) : Byte := BitVec.ofNat 8 (w / 256 ^ k)

/-- The three bytes of an instruction word of `nbits` bits, zero above them, in the order they lie in memory (R65). -/
def wordBytes (nbits w : Nat) : List Byte :=
  let v := w % 2 ^ nbits
  [wordByte v 0, wordByte v 1, wordByte v 2]

/-- The instruction that the decoder reads from an opcode-table word. -/
def decodeTableWord (nbits w : Nat) : Option Instr :=
  match decode (wordBytes nbits w) with
  | .ok r => some r.1
  | .error _ => none

/-! ### The encoder -/

/-- The operand bytes of a memory operand, low byte first (R65, R75). -/
def Mem.bytes : Mem → List Byte
  | .zp b => [b]
  | .zpx b => [b]
  | .zpy b => [b]
  | .izx b => [b]
  | .izy b => [b]
  | .abs w => [lo8 w, hi8 w]
  | .abx w => [lo8 w, hi8 w]
  | .aby w => [lo8 w, hi8 w]

/-- The operand bytes of a VALUE operand. -/
def Value.bytes : Value → List Byte
  | .imm b => [b]
  | .mem m => m.bytes

/-- The operand bytes of a shift operand. -/
def ShiftTarget.bytes : ShiftTarget → List Byte
  | .acc => []
  | .mem m => m.bytes

/-- The operand bytes of a JMP operand. -/
def JumpTarget.bytes : JumpTarget → List Byte
  | .abs w => [lo8 w, hi8 w]
  | .ind w => [lo8 w, hi8 w]

/-- The operation of an instruction. -/
def Instr.op : Instr → Op
  | .adc _ => .adc
  | .sbc _ => .sbc
  | .and _ => .and
  | .ora _ => .ora
  | .eor _ => .eor
  | .asl _ => .asl
  | .lsr _ => .lsr
  | .rol _ => .rol
  | .ror _ => .ror
  | .cmp _ => .cmp
  | .cpx _ => .cpx
  | .cpy _ => .cpy
  | .bit _ => .bit
  | .inc _ => .inc
  | .dec _ => .dec
  | .inx => .inx
  | .iny => .iny
  | .dex => .dex
  | .dey => .dey
  | .bcc _ => .bcc
  | .bcs _ => .bcs
  | .beq _ => .beq
  | .bne _ => .bne
  | .bmi _ => .bmi
  | .bpl _ => .bpl
  | .bvc _ => .bvc
  | .bvs _ => .bvs
  | .jmp _ => .jmp
  | .jsr _ => .jsr
  | .rts => .rts
  | .brk => .brk
  | .rti => .rti
  | .pha => .pha
  | .php => .php
  | .pla => .pla
  | .plp => .plp
  | .clc => .clc
  | .cld => .cld
  | .cli => .cli
  | .clv => .clv
  | .sec => .sec
  | .sed => .sed
  | .sei => .sei
  | .tax => .tax
  | .tay => .tay
  | .tsx => .tsx
  | .txa => .txa
  | .txs => .txs
  | .tya => .tya
  | .lda _ => .lda
  | .ldx _ => .ldx
  | .ldy _ => .ldy
  | .sta _ => .sta
  | .stx _ => .stx
  | .sty _ => .sty
  | .nop => .nop
  | .slo _ => .slo
  | .sre _ => .sre
  | .rla _ => .rla
  | .rra _ => .rra
  | .dcp _ => .dcp
  | .isc _ => .isc
  | .lax _ => .lax
  | .sax _ => .sax
  | .dop _ _ => .dop
  | .top _ _ => .top
  | .nopU _ => .nopU
  | .sbcU _ => .sbcU
  | .unassigned _ => .unassigned

/-- The addressing mode of an instruction. -/
def Instr.mode : Instr → Mode
  | .adc o => o.mode
  | .sbc o => o.mode
  | .and o => o.mode
  | .ora o => o.mode
  | .eor o => o.mode
  | .asl o => o.mode
  | .lsr o => o.mode
  | .rol o => o.mode
  | .ror o => o.mode
  | .cmp o => o.mode
  | .cpx o => o.mode
  | .cpy o => o.mode
  | .bit o => o.mode
  | .inc o => o.mode
  | .dec o => o.mode
  | .inx => .imp
  | .iny => .imp
  | .dex => .imp
  | .dey => .imp
  | .bcc _ => .rel
  | .bcs _ => .rel
  | .beq _ => .rel
  | .bne _ => .rel
  | .bmi _ => .rel
  | .bpl _ => .rel
  | .bvc _ => .rel
  | .bvs _ => .rel
  | .jmp o => o.mode
  | .jsr _ => .abs
  | .rts => .imp
  | .brk => .imp
  | .rti => .imp
  | .pha => .imp
  | .php => .imp
  | .pla => .imp
  | .plp => .imp
  | .clc => .imp
  | .cld => .imp
  | .cli => .imp
  | .clv => .imp
  | .sec => .imp
  | .sed => .imp
  | .sei => .imp
  | .tax => .imp
  | .tay => .imp
  | .tsx => .imp
  | .txa => .imp
  | .txs => .imp
  | .tya => .imp
  | .lda o => o.mode
  | .ldx o => o.mode
  | .ldy o => o.mode
  | .sta o => o.mode
  | .stx o => o.mode
  | .sty o => o.mode
  | .nop => .imp
  | .slo o => o.mode
  | .sre o => o.mode
  | .rla o => o.mode
  | .rra o => o.mode
  | .dcp o => o.mode
  | .isc o => o.mode
  | .lax o => o.mode
  | .sax o => o.mode
  | .dop _ o => o.mode
  | .top _ o => o.mode
  | .nopU _ => .imp
  | .sbcU _ => .imm
  | .unassigned _ => .imp

/-- The operand bytes of an instruction. -/
def Instr.operandBytes : Instr → List Byte
  | .adc o => o.bytes
  | .sbc o => o.bytes
  | .and o => o.bytes
  | .ora o => o.bytes
  | .eor o => o.bytes
  | .asl o => o.bytes
  | .lsr o => o.bytes
  | .rol o => o.bytes
  | .ror o => o.bytes
  | .cmp o => o.bytes
  | .cpx o => o.bytes
  | .cpy o => o.bytes
  | .bit o => o.bytes
  | .inc o => o.bytes
  | .dec o => o.bytes
  | .inx => []
  | .iny => []
  | .dex => []
  | .dey => []
  | .bcc b => [b]
  | .bcs b => [b]
  | .beq b => [b]
  | .bne b => [b]
  | .bmi b => [b]
  | .bpl b => [b]
  | .bvc b => [b]
  | .bvs b => [b]
  | .jmp o => o.bytes
  | .jsr w => [lo8 w, hi8 w]
  | .rts => []
  | .brk => []
  | .rti => []
  | .pha => []
  | .php => []
  | .pla => []
  | .plp => []
  | .clc => []
  | .cld => []
  | .cli => []
  | .clv => []
  | .sec => []
  | .sed => []
  | .sei => []
  | .tax => []
  | .tay => []
  | .tsx => []
  | .txa => []
  | .txs => []
  | .tya => []
  | .lda o => o.bytes
  | .ldx o => o.bytes
  | .ldy o => o.bytes
  | .sta o => o.bytes
  | .stx o => o.bytes
  | .sty o => o.bytes
  | .nop => []
  | .slo o => o.bytes
  | .sre o => o.bytes
  | .rla o => o.bytes
  | .rra o => o.bytes
  | .dcp o => o.bytes
  | .isc o => o.bytes
  | .lax o => o.bytes
  | .sax o => o.bytes
  | .dop _ o => o.bytes
  | .top _ o => o.bytes
  | .nopU _ => []
  | .sbcU b => [b]
  | .unassigned _ => []

/-- The "Encoding" line of each instruction rule, R107 to R179, R186 to R193, R197. The four operations whose instruction
carries its own opcode byte (R194, R195, R196, R90) have none here. -/
def encodings : Op → List (Mode × Byte)
  | .adc => [(.imm, 0x69), (.zp, 0x65), (.zpx, 0x75), (.abs, 0x6D), (.abx, 0x7D), (.aby, 0x79), (.izx, 0x61), (.izy, 0x71)]
  | .sbc => [(.imm, 0xE9), (.zp, 0xE5), (.zpx, 0xF5), (.abs, 0xED), (.abx, 0xFD), (.aby, 0xF9), (.izx, 0xE1), (.izy, 0xF1)]
  | .and => [(.imm, 0x29), (.zp, 0x25), (.zpx, 0x35), (.abs, 0x2D), (.abx, 0x3D), (.aby, 0x39), (.izx, 0x21), (.izy, 0x31)]
  | .ora => [(.imm, 0x09), (.zp, 0x05), (.zpx, 0x15), (.abs, 0x0D), (.abx, 0x1D), (.aby, 0x19), (.izx, 0x01), (.izy, 0x11)]
  | .eor => [(.imm, 0x49), (.zp, 0x45), (.zpx, 0x55), (.abs, 0x4D), (.abx, 0x5D), (.aby, 0x59), (.izx, 0x41), (.izy, 0x51)]
  | .asl => [(.acc, 0x0A), (.zp, 0x06), (.zpx, 0x16), (.abs, 0x0E), (.abx, 0x1E)]
  | .lsr => [(.acc, 0x4A), (.zp, 0x46), (.zpx, 0x56), (.abs, 0x4E), (.abx, 0x5E)]
  | .rol => [(.acc, 0x2A), (.zp, 0x26), (.zpx, 0x36), (.abs, 0x2E), (.abx, 0x3E)]
  | .ror => [(.acc, 0x6A), (.zp, 0x66), (.zpx, 0x76), (.abs, 0x6E), (.abx, 0x7E)]
  | .cmp => [(.imm, 0xC9), (.zp, 0xC5), (.zpx, 0xD5), (.abs, 0xCD), (.abx, 0xDD), (.aby, 0xD9), (.izx, 0xC1), (.izy, 0xD1)]
  | .cpx => [(.imm, 0xE0), (.zp, 0xE4), (.abs, 0xEC)]
  | .cpy => [(.imm, 0xC0), (.zp, 0xC4), (.abs, 0xCC)]
  | .bit => [(.zp, 0x24), (.abs, 0x2C)]
  | .inc => [(.zp, 0xE6), (.zpx, 0xF6), (.abs, 0xEE), (.abx, 0xFE)]
  | .dec => [(.zp, 0xC6), (.zpx, 0xD6), (.abs, 0xCE), (.abx, 0xDE)]
  | .inx => [(.imp, 0xE8)]
  | .iny => [(.imp, 0xC8)]
  | .dex => [(.imp, 0xCA)]
  | .dey => [(.imp, 0x88)]
  | .bcc => [(.rel, 0x90)]
  | .bcs => [(.rel, 0xB0)]
  | .beq => [(.rel, 0xF0)]
  | .bne => [(.rel, 0xD0)]
  | .bmi => [(.rel, 0x30)]
  | .bpl => [(.rel, 0x10)]
  | .bvc => [(.rel, 0x50)]
  | .bvs => [(.rel, 0x70)]
  | .jmp => [(.abs, 0x4C), (.ind, 0x6C)]
  | .jsr => [(.abs, 0x20)]
  | .rts => [(.imp, 0x60)]
  | .brk => [(.imp, 0x00)]
  | .rti => [(.imp, 0x40)]
  | .pha => [(.imp, 0x48)]
  | .php => [(.imp, 0x08)]
  | .pla => [(.imp, 0x68)]
  | .plp => [(.imp, 0x28)]
  | .clc => [(.imp, 0x18)]
  | .cld => [(.imp, 0xD8)]
  | .cli => [(.imp, 0x58)]
  | .clv => [(.imp, 0xB8)]
  | .sec => [(.imp, 0x38)]
  | .sed => [(.imp, 0xF8)]
  | .sei => [(.imp, 0x78)]
  | .tax => [(.imp, 0xAA)]
  | .tay => [(.imp, 0xA8)]
  | .tsx => [(.imp, 0xBA)]
  | .txa => [(.imp, 0x8A)]
  | .txs => [(.imp, 0x9A)]
  | .tya => [(.imp, 0x98)]
  | .lda => [(.imm, 0xA9), (.zp, 0xA5), (.zpx, 0xB5), (.abs, 0xAD), (.abx, 0xBD), (.aby, 0xB9), (.izx, 0xA1), (.izy, 0xB1)]
  | .ldx => [(.imm, 0xA2), (.zp, 0xA6), (.zpy, 0xB6), (.abs, 0xAE), (.aby, 0xBE)]
  | .ldy => [(.imm, 0xA0), (.zp, 0xA4), (.zpx, 0xB4), (.abs, 0xAC), (.abx, 0xBC)]
  | .sta => [(.zp, 0x85), (.zpx, 0x95), (.abs, 0x8D), (.abx, 0x9D), (.aby, 0x99), (.izx, 0x81), (.izy, 0x91)]
  | .stx => [(.zp, 0x86), (.zpy, 0x96), (.abs, 0x8E)]
  | .sty => [(.zp, 0x84), (.zpx, 0x94), (.abs, 0x8C)]
  | .nop => [(.imp, 0xEA)]
  | .slo => [(.zp, 0x07), (.zpx, 0x17), (.abs, 0x0F), (.abx, 0x1F), (.aby, 0x1B), (.izx, 0x03), (.izy, 0x13)]
  | .sre => [(.zp, 0x47), (.zpx, 0x57), (.abs, 0x4F), (.abx, 0x5F), (.aby, 0x5B), (.izx, 0x43), (.izy, 0x53)]
  | .rla => [(.zp, 0x27), (.zpx, 0x37), (.abs, 0x2F), (.abx, 0x3F), (.aby, 0x3B), (.izx, 0x23), (.izy, 0x33)]
  | .rra => [(.zp, 0x67), (.zpx, 0x77), (.abs, 0x6F), (.abx, 0x7F), (.aby, 0x7B), (.izx, 0x63), (.izy, 0x73)]
  | .dcp => [(.zp, 0xC7), (.zpx, 0xD7), (.abs, 0xCF), (.abx, 0xDF), (.aby, 0xDB), (.izx, 0xC3), (.izy, 0xD3)]
  | .isc => [(.zp, 0xE7), (.zpx, 0xF7), (.abs, 0xEF), (.abx, 0xFF), (.aby, 0xFB), (.izx, 0xE3), (.izy, 0xF3)]
  | .lax => [(.zp, 0xA7), (.zpy, 0xB7), (.abs, 0xAF), (.aby, 0xBF), (.izx, 0xA3), (.izy, 0xB3)]
  | .sax => [(.zp, 0x87), (.zpy, 0x97), (.abs, 0x8F), (.izx, 0x83)]
  | .sbcU => [(.imm, 0xEB)]
  | .dop => []
  | .top => []
  | .nopU => []
  | .unassigned => []

/-- The opcode byte of an instruction (0 for a mode that the instruction does not have). -/
def opcodeOf (i : Instr) : Byte :=
  match i with
  | .dop opcode _ => opcode
  | .top opcode _ => opcode
  | .nopU opcode => opcode
  | .unassigned opcode => opcode
  | i => ((encodings i.op).lookup i.mode).getD 0

/-- The encoder: the bytes of an instruction in the order they lie in memory (R65). -/
def encode (i : Instr) : List Byte := opcodeOf i :: i.operandBytes

end Sys2Proof
end

