-- ==== Sys2Proof/Machine/Fetch.lean ====
section
/-! DEFINITION. The dispatcher's fetch (30_encoding.md R70): the opcode byte, then the operand bytes that its length asks
for, each one bus read; then PC is advanced, except on an unassigned byte, where it stays (R72). -/

namespace Sys2Proof.Machine

/-- The opcode fetch (R70). -/
def fetchOpcode (s : State) : Byte × State := memRead s.pc s

/-- The opcode byte, and the operand bytes as far as the opcode's length asks for them, with the state after those reads.
A byte that is not fetched is given as 0, which `decodeWith` does not look at. -/
def fetchBytes (s : State) : Byte × Byte × Byte × State :=
  let f0 := fetchOpcode s
  match lengthOf f0.1 with
  | 2 =>
    let f1 := memRead (s.pc + 1) f0.2
    (f0.1, f1.1, 0, f1.2)
  | 3 =>
    let f1 := memRead (s.pc + 1) f0.2
    let f2 := memRead (s.pc + 2) f1.2
    (f0.1, f1.1, f2.1, f2.2)
  | _ => (f0.1, 0, 0, f0.2)

/-- How far an opcode advances PC: its length, and not at all when it is unassigned (R70, R72). -/
def advanceOf (opcode : Byte) : Nat := if (dispatch opcode).op = .unassigned then 0 else lengthOf opcode

/-- The instruction at PC, and the state in which it executes: its bytes read, PC advanced (R70). -/
def fetch (s : State) : Instr × State :=
  let f := fetchBytes s
  (decodeWith f.1 f.2.1 f.2.2.1, { f.2.2.2 with pc := s.pc + BitVec.ofNat 16 (advanceOf f.1) })

end Sys2Proof.Machine
end

