-- ==== Sys2Proof/Machine/Step.lean ====
section
/-! DEFINITION. One step: one whole instruction (00_scope.md R7, 30_encoding.md R70). A block that holds a fault mark takes
no step (R39, R214). -/

namespace Sys2Proof.Machine

/-- One step (R70). -/
def step (s : State) : Host.Outcome State Fault Refusal :=
  match s.fault with
  | some r => .fault r
  | none => exec (fetch s).1 (fetch s).2

/-- An address of the three bytes from PC on lies in the I/O region. -/
def fetchMeetsIo (s : State) : Bool :=
  isIo s.ioRegion s.pc || isIo s.ioRegion (s.pc + 1) || isIo s.ioRegion (s.pc + 2)

/-- The state with the instruction word stored where `step` fetches next: three bytes from PC on, the bits above `nbits`
zero. A block with a fault mark takes no step and a fetch from the I/O region does not see memory, so the mark is taken
away, and the region if it meets those bytes. Log entry 9. -/
def State.withFetchWord (s : State) (nbits w : Nat) : State :=
  let bs := wordBytes nbits w
  { s with
    memory :=
      ((s.memory.write s.pc.toNat (bs.getD 0 0)).write (s.pc + 1).toNat (bs.getD 1 0)).write (s.pc + 2).toNat (bs.getD 2 0)
    ioRegion := if fetchMeetsIo s then [] else s.ioRegion
    fault := none }

end Sys2Proof.Machine
end

