-- ==== Sys2Proof/Machine/HostActions.lean ====
section
/-! DEFINITION. What the host does to the block between steps (00_scope.md R5(c)): construction, `step` with the fault mark
recorded, `reset` and `external` (70_reset_and_hazards.md R220, R221; 60_exceptions.md R205, R214). -/

namespace Sys2Proof.Machine

/-- Construction (R221, R40): B is 0, `cycles` is 0, there is no fault and no bus event yet. The cells that the spec leaves
unset hold zero here (log entry 1). `memory` and `ioRegion` are the platform's. -/
def powerOn (memory : Memory) (ioRegion : List IoRange) : State where
  a := 0
  x := 0
  y := 0
  sp := 0
  pc := 0
  c := false
  z := false
  i := false
  d := false
  b := false
  v := false
  n := false
  cycles := 0
  fault := none
  memory := memory
  ioRegion := ioRegion
  events := []

/-- The reset operation (R220): no effect on a faulted block (R214). -/
def hostReset (s : State) : State :=
  match s.fault with
  | some _ => s
  | none =>
    let t := read16 Config.resetVector { s with sp := Config.resetSp, i := true, b := false }
    { t.2 with pc := t.1 }

/-- The host's `external(f)` (R205): any change of the state between two steps; none on a faulted block (R214). -/
def hostExternal (f : State → State) (s : State) : State :=
  match s.fault with
  | some _ => s
  | none => f s

/-- The state that a fault leaves (R72, R214): the opcode fetch is recorded and the mark is set; PC stays on the opcode byte
and nothing else changes. -/
def faultedState (r : Fault) (s : State) : State := { (fetchOpcode s).2 with fault := some r }

/-- The host's `step`, as a change of state: the next state, or, where the step ends in a fault, the faulted state; a faulted
block stays as it is (R14, R39, R214). -/
def hostStep (s : State) : State :=
  match s.fault with
  | some _ => s
  | none =>
    match step s with
    | .next t => t
    | .fault r => faultedState r s
    | .refused _ => s

end Sys2Proof.Machine
end

