-- ==== Sys2Proof/Machine/Unset.lean ====
section
/-! DEFINITION. Cells that hold no value (10_state.md R21, R22).

The spec's registers and flags, B apart, may hold no value, and reading such a cell is the fault `UninitRead`, raised at
that point of the instruction's pseudocode; what stands before the read has happened (R22, R202, R214). A register of
`State` always holds a value (log entry 1). So a block whose cells may be unset is a `State` beside the list of the cells
that are set, and its step runs the machine's own operations up to the first read of an unset cell. -/

namespace Sys2Proof.Machine

/-! ### The block -/

/-- A state, and the cells of it that hold a value in the spec's sense. -/
structure Tracked where
  set   : List RegCell
  state : State
  deriving DecidableEq, Repr

/-- The state record of R42: an unset cell is `none`, and the memory behind the bus port is no part of it. -/
structure SpecState where
  a : Option Byte
  x : Option Byte
  y : Option Byte
  sp : Option Byte
  pc : Option Word
  c : Option Bool
  z : Option Bool
  i : Option Bool
  d : Option Bool
  b : Bool
  v : Option Bool
  n : Option Bool
  cycles : Nat
  fault : Option Fault
  deriving DecidableEq, Repr

/-- The value of a cell, if the cell is set. -/
def Tracked.cell {α : Type} (t : Tracked) (r : RegCell) (value : State → α) : Option α :=
  if r ∈ t.set then some (value t.state) else none

/-- What the spec calls the state of the block (R42): what the host sees between steps. -/
def Tracked.view (t : Tracked) : SpecState where
  a := t.cell .a State.a
  x := t.cell .x State.x
  y := t.cell .y State.y
  sp := t.cell .sp State.sp
  pc := t.cell .pc State.pc
  c := t.cell .c State.c
  z := t.cell .z State.z
  i := t.cell .i State.i
  d := t.cell .d State.d
  b := t.state.b
  v := t.cell .v State.v
  n := t.cell .n State.n
  cycles := t.state.cycles
  fault := t.state.fault

/-! ### Which cells an instruction reads, and when -/

/-- One read of a cell by an instruction: the cell, the cells that the instruction has set before the read, and the state in
which the read takes place, with every effect that stands before it in the pseudocode (R22). -/
structure CellRead where
  cell  : RegCell
  set   : List RegCell
  state : State
  deriving DecidableEq, Repr

/-- Reads of cells, one after the other with no effect between them. -/
def readsAt (cells set : List RegCell) (s : State) : List CellRead := cells.map fun r => ⟨r, set, s⟩

/-- The index register that a memory mode reads, when the mode is resolved (R80, R81, R83, R84, R87): before any bus event,
but in mode IZY, where Y is added after the two pointer reads (R88). -/
def memReads (m : Mem) (s : State) : List CellRead :=
  match m with
  | .zp _ => []
  | .zpx _ => readsAt [.x] [] s
  | .zpy _ => readsAt [.y] [] s
  | .abs _ => []
  | .abx _ => readsAt [.x] [] s
  | .aby _ => readsAt [.y] [] s
  | .izx _ => readsAt [.x] [] s
  | .izy _ => readsAt [.y] [] (effAddr m s).2

/-- The index register that a VALUE operand reads. -/
def valueReads (o : Value) (s : State) : List CellRead :=
  match o with
  | .imm _ => []
  | .mem m => memReads m s

/-- The reads of an instruction on a VALUE operand: its cells are read after the operand byte (R71, R73). -/
def onValue (o : Value) (cells : List RegCell) (s : State) : List CellRead :=
  valueReads o s ++ readsAt cells [] (resolveValue o s).2

/-- The reads of an instruction on an ADDRESS operand that reads its cells before it touches the address (R71). -/
def onAddress (m : Mem) (cells : List RegCell) (s : State) : List CellRead :=
  memReads m s ++ readsAt cells [] (effAddr m s).2

/-- The reads of a composition (R185): those of the first primitive before it reads the address, then those of the second
primitive, when the first has read and written the address and set its flags, and the address has been read again. -/
def onCompose (first : Word → State → State) (firstCells firstSets secondCells : List RegCell) (m : Mem) (s : State) :
    List CellRead :=
  let ea := effAddr m s
  onAddress m firstCells s ++ readsAt secondCells firstSets (memRead ea.1 (first ea.1 ea.2)).2

/-- The flags that the pushed status byte is made of, in the order of the formula of R36 (log entry 10). -/
def statusCells : List RegCell := [.n, .v, .d, .i, .z, .c]

/-- The cells that an instruction reads, in the order of its rule, each with what stands before the read; `s` is the state
with PC advanced (R70), and PC itself, which the fetch has read already, is not listed. A cell that the instruction has
read or set already is not listed again, but where an index register is also an operand. -/
def cellReads (i : Instr) (s : State) : List CellRead :=
  match i with
  | .adc o => onValue o [.a, .c] s
  | .sbc o => onValue o [.a, .c] s
  | .and o => onValue o [.a] s
  | .ora o => onValue o [.a] s
  | .eor o => onValue o [.a] s
  | .asl .acc => readsAt [.a] [] s
  | .asl (.mem m) => onAddress m [] s
  | .lsr .acc => readsAt [.a] [] s
  | .lsr (.mem m) => onAddress m [] s
  | .rol .acc => readsAt [.c, .a] [] s
  | .rol (.mem m) => onAddress m [.c] s
  | .ror .acc => readsAt [.c, .a] [] s
  | .ror (.mem m) => onAddress m [.c] s
  | .cmp o => onValue o [.a] s
  | .cpx o => onValue o [.x] s
  | .cpy o => onValue o [.y] s
  | .bit m => memReads m s ++ readsAt [.a] [] (memRead (effAddr m s).1 (effAddr m s).2).2
  | .inc m => onAddress m [] s
  | .dec m => onAddress m [] s
  | .inx => readsAt [.x] [] s
  | .iny => readsAt [.y] [] s
  | .dex => readsAt [.x] [] s
  | .dey => readsAt [.y] [] s
  | .bcc _ => readsAt [.c] [] s
  | .bcs _ => readsAt [.c] [] s
  | .beq _ => readsAt [.z] [] s
  | .bne _ => readsAt [.z] [] s
  | .bmi _ => readsAt [.n] [] s
  | .bpl _ => readsAt [.n] [] s
  | .bvc _ => readsAt [.v] [] s
  | .bvs _ => readsAt [.v] [] s
  | .jmp _ => []
  | .jsr _ => readsAt [.sp] [] s
  | .rts => readsAt [.sp] [] s
  | .brk => readsAt [.sp] [] s ++ readsAt statusCells [] (push16 s.pc s)
  | .rti => readsAt [.sp] [] s
  | .pha => readsAt [.a, .sp] [] s
  | .php => readsAt (statusCells ++ [.sp]) [] s
  | .pla => readsAt [.sp] [] s
  | .plp => readsAt [.sp] [] s
  | .clc => []
  | .cld => []
  | .cli => []
  | .clv => []
  | .sec => []
  | .sed => []
  | .sei => []
  | .tax => readsAt [.a] [] s
  | .tay => readsAt [.a] [] s
  | .tsx => readsAt [.sp] [] s
  | .txa => readsAt [.x] [] s
  | .txs => readsAt [.x] [] s
  | .tya => readsAt [.y] [] s
  | .lda o => onValue o [] s
  | .ldx o => onValue o [] s
  | .ldy o => onValue o [] s
  | .sta m => onAddress m [.a] s
  | .stx m => onAddress m [.x] s
  | .sty m => onAddress m [.y] s
  | .nop => []
  | .slo m => onCompose aslMem [] [.c, .z, .n] [.a] m s
  | .sre m => onCompose lsrMem [] [.c, .z, .n] [.a] m s
  | .rla m => onCompose rolMem [.c] [.c, .z, .n] [.a] m s
  | .rra m => onCompose rorMem [.c] [.c, .z, .n] [.a] m s
  | .dcp m => onCompose decMemQuiet [] [] [.a] m s
  | .isc m => onCompose incMem [] [.z, .n] [.a, .c] m s
  | .lax m => onAddress m [] s
  | .sax m => onAddress m [.a, .x] s
  | .dop _ o => onValue o [] s
  | .top _ o => onValue o [] s
  | .nopU _ => []
  | .sbcU _ => readsAt [.a, .c] [] s
  | .unassigned _ => []

/-- The cells that an instruction sets besides those it reads (R21). -/
def cellSets : Instr → List RegCell
  | .adc _ => [.c, .v, .a, .z, .n]
  | .sbc _ => [.c, .v, .a, .z, .n]
  | .and _ => [.a, .z, .n]
  | .ora _ => [.a, .z, .n]
  | .eor _ => [.a, .z, .n]
  | .asl .acc => [.c, .a, .z, .n]
  | .asl (.mem _) => [.c, .z, .n]
  | .lsr .acc => [.c, .a, .z, .n]
  | .lsr (.mem _) => [.c, .z, .n]
  | .rol .acc => [.c, .a, .z, .n]
  | .rol (.mem _) => [.c, .z, .n]
  | .ror .acc => [.c, .a, .z, .n]
  | .ror (.mem _) => [.c, .z, .n]
  | .cmp _ => [.c, .z, .n]
  | .cpx _ => [.c, .z, .n]
  | .cpy _ => [.c, .z, .n]
  | .bit _ => [.z, .v, .n]
  | .inc _ => [.z, .n]
  | .dec _ => [.z, .n]
  | .inx => [.x, .z, .n]
  | .iny => [.y, .z, .n]
  | .dex => [.x, .z, .n]
  | .dey => [.y, .z, .n]
  | .bcc _ => []
  | .bcs _ => []
  | .beq _ => []
  | .bne _ => []
  | .bmi _ => []
  | .bpl _ => []
  | .bvc _ => []
  | .bvs _ => []
  | .jmp _ => []
  | .jsr _ => []
  | .rts => []
  | .brk => []
  | .rti => [.c, .z, .i, .d, .v, .n]
  | .pha => []
  | .php => []
  | .pla => [.a, .z, .n]
  | .plp => [.c, .z, .i, .d, .v, .n]
  | .clc => [.c]
  | .cld => [.d]
  | .cli => [.i]
  | .clv => [.v]
  | .sec => [.c]
  | .sed => [.d]
  | .sei => [.i]
  | .tax => [.x, .z, .n]
  | .tay => [.y, .z, .n]
  | .tsx => [.x, .z, .n]
  | .txa => [.a, .z, .n]
  | .txs => [.sp]
  | .tya => [.a, .z, .n]
  | .lda _ => [.a, .z, .n]
  | .ldx _ => [.x, .z, .n]
  | .ldy _ => [.y, .z, .n]
  | .sta _ => []
  | .stx _ => []
  | .sty _ => []
  | .nop => []
  | .slo _ => [.c, .a, .z, .n]
  | .sre _ => [.c, .a, .z, .n]
  | .rla _ => [.c, .a, .z, .n]
  | .rra _ => [.c, .v, .a, .z, .n]
  | .dcp _ => [.c, .z, .n]
  | .isc _ => [.c, .v, .a, .z, .n]
  | .lax _ => [.a, .x, .z, .n]
  | .sax _ => []
  | .dop _ _ => []
  | .top _ _ => []
  | .nopU _ => []
  | .sbcU _ => [.c, .v, .a, .z, .n]
  | .unassigned _ => []

/-! ### The spec's step and the host's actions -/

/-- The first read of an unset cell in a step of the block: PC, which the fetch reads before anything else (R70), or a cell
that the fetched instruction reads. -/
def unsetRead (t : Tracked) : Option CellRead :=
  if .pc ∈ t.set then
    (cellReads (fetch t.state).1 (fetch t.state).2).find? fun p => decide (p.cell ∉ t.set)
  else some ⟨.pc, [], t.state⟩

/-- The outcome of an instruction's meaning, with the cells that are set after it. -/
def trackOutcome (set : List RegCell) : Host.Outcome State Fault Refusal → Host.Outcome Tracked Fault Refusal
  | .next s => .next ⟨set, s⟩
  | .fault r => .fault r
  | .refused r => .refused r

/-- The spec's step (R22, R70): the first read of an unset cell is the fault `UninitRead`. `trackedHostStep` gives the state
that it leaves. -/
def trackedStep (t : Tracked) : Host.Outcome Tracked Fault Refusal :=
  match t.state.fault with
  | some r => .fault r
  | none =>
    match unsetRead t with
    | some p => .fault (.uninitRead p.cell)
    | none => trackOutcome (t.set ++ cellSets (fetch t.state).1) (step t.state)

/-- `k` of the spec's steps. -/
def trackedRun : Nat → Tracked → Host.Outcome Tracked Fault Refusal
  | 0, t => .next t
  | k + 1, t =>
    match trackedStep t with
    | .next u => trackedRun k u
    | .fault r => .fault r
    | .refused r => .refused r

/-- What a read of an unset cell leaves (R22, R39, R214): every effect before the read stands, the mark names the cell, and
nothing after the read happens. -/
def uninitState (p : CellRead) (set : List RegCell) : Tracked :=
  ⟨set ++ p.set, { p.state with fault := some (.uninitRead p.cell) }⟩

/-- The host's `step`, as a change of the block: the next state or, where the step ends in a fault, the faulted state. -/
def trackedHostStep (t : Tracked) : Tracked :=
  match t.state.fault with
  | some _ => t
  | none =>
    match unsetRead t with
    | some p => uninitState p t.set
    | none => ⟨t.set ++ cellSets (fetch t.state).1, hostStep t.state⟩

/-- `k` of the host's steps. -/
def trackedHostRun : Nat → Tracked → Tracked
  | 0, t => t
  | k + 1, t => trackedHostRun k (trackedHostStep t)

/-- A constructed block (R40, R221): no cell is set. -/
def trackedPowerOn (memory : Memory) (ioRegion : List IoRange) : Tracked := ⟨[], powerOn memory ioRegion⟩

/-- The reset operation sets SP, I and PC (R40, R220); it has no effect on a faulted block (R214). -/
def trackedReset (t : Tracked) : Tracked :=
  match t.state.fault with
  | some _ => t
  | none => ⟨t.set ++ [.sp, .i, .pc], hostReset t.state⟩

/-- The host's `external(f)` (R205), which may set cells too; it has no effect on a faulted block (R214). -/
def trackedExternal (f : Tracked → Tracked) (t : Tracked) : Tracked :=
  match t.state.fault with
  | some _ => t
  | none => f t

end Sys2Proof.Machine
end

