-- ==== Sys2Proof/Safety.lean ====
section
/-! DEFINITION. The terms that claims use: what a step may change, which bytes an instruction stores to, which byte the bus
history says an address holds, and what a read of a register or flag that nothing has written leaves (10_state.md R21, R22). -/

namespace Sys2Proof.Safety
open Sys2Proof.Machine

/-! ### Frames -/

/-- The fields of the state other than memory and the event history. -/
inductive Field where
  | a | x | y | sp | pc | c | z | i | d | b | v | n | cycles | fault | ioRegion
  deriving DecidableEq, Repr

/-- Two states have the same value in a field. -/
def same (s t : State) : Field → Prop
  | .a => t.a = s.a
  | .x => t.x = s.x
  | .y => t.y = s.y
  | .sp => t.sp = s.sp
  | .pc => t.pc = s.pc
  | .c => t.c = s.c
  | .z => t.z = s.z
  | .i => t.i = s.i
  | .d => t.d = s.d
  | .b => t.b = s.b
  | .v => t.v = s.v
  | .n => t.n = s.n
  | .cycles => t.cycles = s.cycles
  | .fault => t.fault = s.fault
  | .ioRegion => t.ioRegion = s.ioRegion

/-- Every field but the named ones is unchanged from `s` to `t`. -/
def unchangedBut (written : List Field) (s t : State) : Prop := ∀ f, f ∉ written → same s t f

/-- Every byte of memory reads as before. -/
def sameMemory (s t : State) : Prop := ∀ k, t.memory.read k = s.memory.read k

/-- From `s` to `t` these bytes were stored, in this order: every other address reads as before, and so does an address in
the I/O region, where a write is only recorded (R48). -/
def stored (s t : State) (ws : List (Word × Byte)) : Prop :=
  ∀ k, t.memory.read k =
    ws.foldl (fun old p => if isIo s.ioRegion p.1 = false ∧ k = p.1.toNat then p.2 else old) (s.memory.read k)

/-- The instructions that the rules of 10_state.md name as writers of a field: A R23, X R24, Y R25, SP R26, PC R27, C R28,
Z R29, I R30, D R31, B R32, V R34, N R35, `cycles` R38, `fault` R39 (the step's own, not an instruction's); no
instruction writes the parameter `IO_REGION`. Of PC, what an instruction writes after the dispatcher has advanced it. -/
def writes (i : Instr) : Field → Bool
  | .a => decide (i.op ∈ ([.adc, .sbc, .sbcU, .and, .ora, .eor, .lda, .pla, .txa, .tya, .lax, .slo, .sre, .rla, .rra, .isc] : List Op)) ||
      (decide (i.op ∈ ([.asl, .lsr, .rol, .ror] : List Op)) && i.mode == .acc)
  | .x => decide (i.op ∈ ([.ldx, .tax, .tsx, .inx, .dex, .lax] : List Op))
  | .y => decide (i.op ∈ ([.ldy, .tay, .iny, .dey] : List Op))
  | .sp => decide (i.op ∈ ([.txs, .jsr, .rts, .brk, .rti, .pha, .php, .pla, .plp] : List Op))
  | .pc => decide (i.op ∈ ([.jmp, .jsr, .rts, .brk, .rti, .bcc, .bcs, .beq, .bne, .bmi, .bpl, .bvc, .bvs] : List Op))
  | .c => decide (i.op ∈ ([.adc, .sbc, .sbcU, .asl, .lsr, .rol, .ror, .cmp, .cpx, .cpy, .clc, .sec, .plp, .rti, .slo, .sre, .rla, .rra, .dcp, .isc] : List Op))
  | .z => decide (i.op ∈ ([.adc, .sbc, .sbcU, .and, .ora, .eor, .asl, .lsr, .rol, .ror, .cmp, .cpx, .cpy, .bit, .inc, .dec, .inx, .iny, .dex, .dey, .rti, .pla, .plp, .tax, .tay, .tsx, .txa, .tya, .lda, .ldx, .ldy, .slo, .sre, .rla, .rra, .dcp, .isc, .lax] : List Op))
  | .i => decide (i.op ∈ ([.cli, .sei, .plp, .rti, .brk] : List Op))
  | .d => decide (i.op ∈ ([.cld, .sed, .plp, .rti] : List Op))
  | .b => decide (i.op ∈ ([.brk, .plp, .rti] : List Op))
  | .v => decide (i.op ∈ ([.adc, .sbc, .sbcU, .bit, .clv, .plp, .rti, .rra, .isc] : List Op))
  | .n => decide (i.op ∈ ([.adc, .sbc, .sbcU, .and, .ora, .eor, .asl, .lsr, .rol, .ror, .cmp, .cpx, .cpy, .bit, .inc, .dec, .inx, .iny, .dex, .dey, .rti, .pla, .plp, .tax, .tay, .tsx, .txa, .tya, .lda, .ldx, .ldy, .slo, .sre, .rla, .rra, .dcp, .isc, .lax] : List Op))
  | .cycles => decide (i.op ∈ ([.bcc, .bcs, .beq, .bne, .bmi, .bpl, .bvc, .bvs] : List Op))
  | .fault => false
  | .ioRegion => false

/-- The addresses that an instruction stores to, from the rule of each instruction (R113 to R119, R124, R125, R145, R147,
R149, R150, R176 to R178, R186 to R191, R193); an instruction that is not listed stores to none (R52). -/
def storeAddrs (i : Instr) (s : State) : List Word :=
  match i with
  | .asl (.mem m) => [(effAddr m s).1]
  | .lsr (.mem m) => [(effAddr m s).1]
  | .rol (.mem m) => [(effAddr m s).1]
  | .ror (.mem m) => [(effAddr m s).1]
  | .inc m => [(effAddr m s).1]
  | .dec m => [(effAddr m s).1]
  | .sta m => [(effAddr m s).1]
  | .stx m => [(effAddr m s).1]
  | .sty m => [(effAddr m s).1]
  | .slo m => [(effAddr m s).1]
  | .sre m => [(effAddr m s).1]
  | .rla m => [(effAddr m s).1]
  | .rra m => [(effAddr m s).1]
  | .dcp m => [(effAddr m s).1]
  | .isc m => [(effAddr m s).1]
  | .sax m => [(effAddr m s).1]
  | .jsr _ => [stackAddr s.sp, stackAddr (s.sp - 1)]
  | .brk => [stackAddr s.sp, stackAddr (s.sp - 1), stackAddr (s.sp - 2)]
  | .pha => [stackAddr s.sp]
  | .php => [stackAddr s.sp]
  | _ => []

/-! ### Bus events -/

/-- The event is a read. -/
def isRead : BusEvent → Bool
  | .read _ _ => true
  | .write _ _ => false

/-- The pointer reads of an addressing mode (R86 to R88, R52). -/
def pointerReads : Mode → Nat
  | .ind => 2
  | .izx => 2
  | .izy => 2
  | _ => 0

/-- The data reads of an instruction after the operand fetch, its pointer reads not counted (the table of R52). -/
def dataReads (i : Instr) : Nat :=
  if i.op ∈ ([.slo, .sre, .rla, .rra, .dcp, .isc, .rts, .brk] : List Op) then 2
  else if i.op = .rti then 3
  else if i.op ∈ ([.pla, .plp, .bit, .lax, .inc, .dec] : List Op) then 1
  else if i.op ∈ ([.adc, .sbc, .and, .ora, .eor, .cmp, .cpx, .cpy, .lda, .ldx, .ldy, .dop, .top] : List Op) then
    (if i.mode = .imm then 0 else 1)
  else if i.op ∈ ([.asl, .lsr, .rol, .ror] : List Op) then (if i.mode = .acc then 0 else 1)
  else 0

/-- The data writes of an instruction (the table of R52). -/
def dataWrites (i : Instr) : Nat :=
  if i.op = .brk then 3
  else if i.op = .jsr then 2
  else if i.op ∈ ([.sta, .stx, .sty, .sax, .inc, .dec, .slo, .sre, .rla, .rra, .dcp, .isc, .pha, .php] : List Op) then 1
  else if i.op ∈ ([.asl, .lsr, .rol, .ror] : List Op) then (if i.mode = .acc then 0 else 1)
  else 0

/-- The byte of the latest write to an address in an event history, oldest event first (R48). -/
def latestWrite (es : List BusEvent) (a : Word) : Option Byte :=
  es.foldl (fun found e => match e with
    | .write k w => if k = a then some w else found
    | .read _ _ => found) none

/-- What the bus must answer to a read of `a` after the events `es` (R48): in the I/O region a draw; outside it the byte of
the latest write, or, when there is none, the address's own draw, the same at every read. -/
def busAnswer (region : List IoRange) (draw : Word → Byte) (es : List BusEvent) (a : Word) : Byte :=
  if isIo region a then Config.ioByte es a else (latestWrite es a).getD (draw a)

/-- The memory and the history of a state are those of one bus (R48): outside the I/O region every address holds the byte
that the history says, and every read of the history was answered as the bus answers. -/
def busCoherent (draw : Word → Byte) (s : State) : Prop :=
  (∀ a, isIo s.ioRegion a = false → s.memory.read a.toNat = (latestWrite s.events a).getD (draw a)) ∧
  (∀ before a w after, s.events = before ++ .read a w :: after → w = busAnswer s.ioRegion draw before a)

/-! ### The end of a run -/

/-- A halt address (70_reset_and_hazards.md R229): the three bytes from PC on are `4C lo hi` with PC as the operand, outside
the I/O region, and the block is not faulted. -/
def atHalt (s : State) : Prop :=
  s.fault = none ∧ fetchMeetsIo s = false ∧ s.memory.read s.pc.toNat = 0x4C ∧
    s.memory.read (s.pc + 1).toNat = lo8 s.pc ∧ s.memory.read (s.pc + 2).toNat = hi8 s.pc

/-! ### Cells that hold no value

`Machine/Unset.lean` has the spec's step over a block whose cells may be unset. Here are the terms that claims about it
use. -/

/-- The index register that a mode reads (R80, R81, R83, R84, R87, R88). -/
def indexCells : Mode → List RegCell
  | .zpx => [.x]
  | .abx => [.x]
  | .izx => [.x]
  | .zpy => [.y]
  | .aby => [.y]
  | .izy => [.y]
  | _ => []

/-- The undocumented compositions (R186 to R191). -/
def compositions : List Op := [.slo, .sre, .rla, .rra, .dcp, .isc]

/-- How many bus events an instruction issues, its fetch not counted, before it reads a cell for the first time. An index
register is read before any event, but in mode IZY after the two pointer reads (R88). Then: a composition reads C for a
rotate before it touches the address, and its other cells after read, write and read of it (R185 to R191); BRK reads SP
first, and the flags after the two pushes of PC (R147); a VALUE operation in a memory mode (R73), and BIT (R123), read
their register after the operand byte; every other instruction reads its cells before any event but the pointer reads
of its mode. -/
def eventsBeforeRead (i : Instr) (r : RegCell) : Nat :=
  if r ∈ indexCells i.mode then (if i.mode = .izy then 2 else 0)
  else pointerReads i.mode +
    if i.op ∈ compositions then (if r = .c ∧ i.op ∈ ([.rla, .rra] : List Op) then 0 else 3)
    else if i.op = .brk then (if r = .sp then 0 else 2)
    else if i.op ∈ ([.adc, .sbc, .and, .ora, .eor, .cmp, .cpx, .cpy, .bit] : List Op) ∧ i.mode ≠ .imm then 1
    else 0

/-- The addresses and bytes of the writes among bus events, in order. -/
def writesOf (es : List BusEvent) : List (Word × Byte) :=
  es.filterMap fun e => match e with
    | .read _ _ => none
    | .write a v => some (a, v)

/-- Two states have the same value in a cell. -/
def sameCell (s t : State) : RegCell → Prop
  | .a => t.a = s.a
  | .x => t.x = s.x
  | .y => t.y = s.y
  | .sp => t.sp = s.sp
  | .pc => t.pc = s.pc
  | .c => t.c = s.c
  | .z => t.z = s.z
  | .i => t.i = s.i
  | .d => t.d = s.d
  | .v => t.v = s.v
  | .n => t.n = s.n

/-- Two states differ at most in the cells outside `set`. -/
def agreeOn (set : List RegCell) (s t : State) : Prop :=
  (∀ r ∈ set, sameCell s t r) ∧ t.b = s.b ∧ t.cycles = s.cycles ∧ t.fault = s.fault ∧ t.memory = s.memory ∧
    t.ioRegion = s.ioRegion ∧ t.events = s.events

end Sys2Proof.Safety
end

