-- ==== Sys2Proof/Certificates/Slice0/Obligations.lean ====
section
/-! DEFINITION. The statements. Each one's docstring names the rules of spec/ it formalises, and says where it rests on a
choice of the spec ("decision", "derived") or of the model (a log entry) and not on a rule of the source.

Throughout, `(resolveValue o s).1` is the byte of a VALUE operand and `(resolveValue o s).2` the state after it is read;
`(effAddr m s).1` is the effective address of a memory operand and `(effAddr m s).2` the state after the mode's pointer
reads. `ResolvingOnlyReads` says that these states differ from `s` in their bus history alone and what the byte is,
`EffectiveAddresses` what the address is. -/

open Sys2Proof Sys2Proof.Machine Sys2Proof.Safety

/-! ### Arithmetic and logic -/

/-- R102, the adder, as ADC (R107) applies it: the exact sum of A, the operand byte and C; the result is the sum modulo 256,
C its ninth bit, V that the operands' signs agree and the result's differs; Z and N from the result (R100); nothing else
changes. It holds whatever D is. -/
def Obligations.AdcAddsWithCarry : Prop :=
  ∀ (o : Value) (s : State),
    let value := (resolveValue o s).1
    let sum := s.a.toNat + value.toNat + s.c.toNat
    ∃ r : Byte, r.toNat = sum % 256 ∧
      exec (.adc o) s = .next { (resolveValue o s).2 with
        a := r
        c := decide (sum > 255)
        v := (s.a.getLsbD 7 == value.getLsbD 7) && (s.a.getLsbD 7 != r.getLsbD 7)
        z := decide (r.toNat = 0)
        n := decide (r.toNat ≥ 128) }

/-- The subtractor (R103), as SBC (R108) applies it: the exact difference A - value - (1 - C); the result is it modulo 256,
C that there was no borrow, V that the operands' signs differ and the result's sign differs from A's. That the
undocumented SBC* is this SBC is the spec's own decision, D6 (R197: "its mapping to SBC is the spec's decision"; log entry
13). That it is the addition of the operand's complement, in the result and in all four flags, is marked as derived in
R103. -/
def Obligations.SbcSubtractsWithBorrow : Prop :=
  ∀ (o : Value) (b : Byte) (s : State),
    let value := (resolveValue o s).1
    let diff : Int := (s.a.toNat : Int) - value.toNat - (1 - s.c.toNat)
    (∃ r : Byte, (r.toNat : Int) = diff % 256 ∧
      exec (.sbc o) s = .next { (resolveValue o s).2 with
        a := r
        c := decide (diff ≥ 0)
        v := (s.a.getLsbD 7 != value.getLsbD 7) && (s.a.getLsbD 7 != r.getLsbD 7)
        z := decide (r.toNat = 0)
        n := decide (r.toNat ≥ 128) }) ∧
    (∃ t, exec (.sbcU b) s = .next t ∧ exec (.sbc (.imm b)) s = .next t) ∧
    (∃ t, exec (.sbc (.imm b)) s = .next t ∧ exec (.adc (.imm (~~~b))) s = .next t)

/-- R102 and R103 call V "signed two's-complement overflow": after ADC and after SBC, V is set exactly when the exact signed
result does not fit a signed byte. Derived from the two formulas. -/
def Obligations.OverflowIsSignedOverflow : Prop :=
  ∀ (o : Value) (s : State),
    let value := (resolveValue o s).1
    (∃ t, exec (.adc o) s = .next t ∧
      (t.v = true ↔ s.a.toInt + value.toInt + s.c.toNat < -128 ∨ s.a.toInt + value.toInt + s.c.toNat > 127)) ∧
    (∃ t, exec (.sbc o) s = .next t ∧
      (t.v = true ↔ s.a.toInt - value.toInt - (1 - s.c.toNat) < -128 ∨ s.a.toInt - value.toInt - (1 - s.c.toNat) > 127))

/-- R131 (derived there): ADC of a byte and then SBC of it with the complement of ADC's carry-in give A back. -/
def Obligations.AdcThenSbcRestoresA : Prop :=
  ∀ (b : Byte) (s : State), ∃ t u,
    exec (.adc (.imm b)) s = .next t ∧ exec (.sbc (.imm b)) { t with c := !s.c } = .next u ∧ u.a = s.a

/-- R104, the logic unit, as AND, ORA and EOR (R109 to R111) apply it, bit by bit; Z and N from the result; C and V and
everything else unchanged. -/
def Obligations.LogicInstructionsActBitwise : Prop :=
  ∀ (o : Value) (s : State),
    let value := (resolveValue o s).1
    ∀ p ∈ [(Instr.and o, and), (Instr.ora o, or), (Instr.eor o, xor)],
      ∃ r : Byte, (∀ k, k < 8 → r.getLsbD k = p.2 (s.a.getLsbD k) (value.getLsbD k)) ∧
        exec p.1 s = .next { (resolveValue o s).2 with a := r, z := decide (r.toNat = 0), n := decide (r.toNat ≥ 128) }

/-- R105, the shifter, as the accumulator forms of ASL, LSR, ROL and ROR (R112, R114, R116, R118) apply it: A doubled or
halved with the fill bit, C the bit shifted out of the value before the shift. -/
def Obligations.AccumulatorShifts : Prop :=
  ∀ s : State,
    ∀ p ∈ [(Instr.asl .acc, 2 * s.a.toNat % 256, s.a.getLsbD 7),
           (Instr.lsr .acc, s.a.toNat / 2, s.a.getLsbD 0),
           (Instr.rol .acc, (2 * s.a.toNat + s.c.toNat) % 256, s.a.getLsbD 7),
           (Instr.ror .acc, s.a.toNat / 2 + 128 * s.c.toNat, s.a.getLsbD 0)],
      ∃ r : Byte, r.toNat = p.2.1 ∧
        exec p.1 s = .next { s with a := r, c := p.2.2, z := decide (r.toNat = 0), n := decide (r.toNat ≥ 128) }

/-- The memory forms of ASL, LSR, ROL and ROR (R113, R115, R117, R119): exactly one read and one write of the effective
address after the mode's pointer reads, the result stored there, C the bit shifted out, Z and N from the result, A and
everything else unchanged. -/
def Obligations.MemoryShifts : Prop :=
  ∀ (m : Mem) (s : State),
    let ea := (effAddr m s).1
    let old := busValue ea (effAddr m s).2
    ∀ p ∈ [(Instr.asl (.mem m), 2 * old.toNat % 256, old.getLsbD 7),
           (Instr.lsr (.mem m), old.toNat / 2, old.getLsbD 0),
           (Instr.rol (.mem m), (2 * old.toNat + s.c.toNat) % 256, old.getLsbD 7),
           (Instr.ror (.mem m), old.toNat / 2 + 128 * s.c.toNat, old.getLsbD 0)],
      ∃ (r : Byte) (t : State), r.toNat = p.2.1 ∧ exec p.1 s = .next t ∧
        stored s t [(ea, r)] ∧ t.events = (effAddr m s).2.events ++ [.read ea old, .write ea r] ∧
        t.c = p.2.2 ∧ t.z = decide (r.toNat = 0) ∧ t.n = decide (r.toNat ≥ 128) ∧ unchangedBut [.c, .z, .n] s t

/-- R106, the comparator, as CMP, CPX and CPY (R120 to R122) apply it: C that the register is at least the operand, unsigned;
Z that they are equal; N bit 7 of the wrapping difference; the register, V and everything else unchanged. -/
def Obligations.ComparesSetCarryZeroNegative : Prop :=
  ∀ (o : Value) (s : State),
    let value := (resolveValue o s).1
    ∀ p ∈ [(Instr.cmp o, s.a), (Instr.cpx o, s.x), (Instr.cpy o, s.y)],
      exec p.1 s = .next { (resolveValue o s).2 with
        c := decide (value.toNat ≤ p.2.toNat)
        z := decide (p.2 = value)
        n := decide ((p.2.toNat + 256 - value.toNat) % 256 ≥ 128) }

/-- BIT (R123): one read of the effective address; Z from A and the byte, V and N the byte's own bits 6 and 7; A, C and
everything else unchanged. -/
def Obligations.BitTestsMemory : Prop :=
  ∀ (m : Mem) (s : State),
    let ea := (effAddr m s).1
    let byte := busValue ea (effAddr m s).2
    ∃ t, exec (.bit m) s = .next t ∧ t.memory = s.memory ∧ t.events = (effAddr m s).2.events ++ [.read ea byte] ∧
      (t.z = true ↔ ∀ k, k < 8 → ¬(s.a.getLsbD k = true ∧ byte.getLsbD k = true)) ∧
      t.v = byte.getLsbD 6 ∧ t.n = byte.getLsbD 7 ∧ unchangedBut [.z, .v, .n] s t

/-- INC and DEC (R124, R125): one read and one write of the effective address, the byte plus or minus one modulo 256, Z and N
from it; C, V, A and everything else unchanged. -/
def Obligations.IncDecMemory : Prop :=
  ∀ (m : Mem) (s : State),
    let ea := (effAddr m s).1
    let old := busValue ea (effAddr m s).2
    ∀ p ∈ [(Instr.inc m, (old.toNat + 1) % 256), (Instr.dec m, (old.toNat + 255) % 256)],
      ∃ (r : Byte) (t : State), r.toNat = p.2 ∧ exec p.1 s = .next t ∧
        stored s t [(ea, r)] ∧ t.events = (effAddr m s).2.events ++ [.read ea old, .write ea r] ∧
        t.z = decide (r.toNat = 0) ∧ t.n = decide (r.toNat ≥ 128) ∧ unchangedBut [.z, .n] s t

/-- INX, INY, DEX, DEY (R126 to R129): the register plus or minus one modulo 256, Z and N from it; no memory access; nothing
else changes. -/
def Obligations.IncDecIndexRegisters : Prop :=
  ∀ s : State,
    (∃ r : Byte, r.toNat = (s.x.toNat + 1) % 256 ∧
      exec .inx s = .next { s with x := r, z := decide (r.toNat = 0), n := decide (r.toNat ≥ 128) }) ∧
    (∃ r : Byte, r.toNat = (s.y.toNat + 1) % 256 ∧
      exec .iny s = .next { s with y := r, z := decide (r.toNat = 0), n := decide (r.toNat ≥ 128) }) ∧
    (∃ r : Byte, r.toNat = (s.x.toNat + 255) % 256 ∧
      exec .dex s = .next { s with x := r, z := decide (r.toNat = 0), n := decide (r.toNat ≥ 128) }) ∧
    (∃ r : Byte, r.toNat = (s.y.toNat + 255) % 256 ∧
      exec .dey s = .next { s with y := r, z := decide (r.toNat = 0), n := decide (r.toNat ≥ 128) })

/-! ### Control flow -/

/-- R135, `branch`, with the predicates of R136 to R143: a branch not taken changes nothing; a taken one goes to the advanced
PC plus the signed offset, modulo 2^16, and adds 2 cycles when the target is on another page than the advanced PC, else
1; nothing else changes. The exec of a branch sees the advanced PC (`StepRunsDecodedInstruction`). -/
def Obligations.BranchesTakenAndNotTaken : Prop :=
  ∀ (offset : Byte) (s : State),
    ∀ p ∈ [(Instr.bcc offset, !s.c), (Instr.bcs offset, s.c), (Instr.beq offset, s.z), (Instr.bne offset, !s.z),
           (Instr.bmi offset, s.n), (Instr.bpl offset, !s.n), (Instr.bvc offset, !s.v), (Instr.bvs offset, s.v)],
      (p.2 = false → exec p.1 s = .next s) ∧
      (p.2 = true → ∃ target : Word,
        (target.toNat : Int) =
          ((s.pc.toNat : Int) + (if offset.toNat ≥ 128 then (offset.toNat : Int) - 256 else offset.toNat)) % 65536 ∧
        exec p.1 s = .next { s with
          pc := target
          cycles := s.cycles + (if target.toNat / 256 ≠ s.pc.toNat / 256 then 2 else 1) })

/-- JMP (R144): the operand itself (R82), or the word at the pointer, the high byte read from the pointer's own page (R86, a
decision of the spec). Nothing else changes but the two pointer reads. -/
def Obligations.JmpTargets : Prop :=
  ∀ (w : Word) (s : State),
    exec (.jmp (.abs w)) s = .next { s with pc := w } ∧
    ∃ (hiAddr target : Word) (lo hi : Byte),
      hiAddr.toNat = 256 * (w.toNat / 256) + (w.toNat + 1) % 256 ∧
      lo = busValue w s ∧ hi = busValue hiAddr (record [.read w lo] s) ∧ target.toNat = 256 * hi.toNat + lo.toNat ∧
      exec (.jmp (.ind w)) s =
        .next { s with pc := target, events := s.events ++ [.read w lo, .read hiAddr hi] }

/-- JSR (R145): PC minus 1 is pushed, high byte first (R57), and PC is the target; SP goes down by 2, wrapping in the stack
page; nothing else changes. -/
def Obligations.JsrPushesReturnAddress : Prop :=
  ∀ (target : Word) (s : State), ∃ (hi lo : Byte) (t : State),
    256 * hi.toNat + lo.toNat = (s.pc.toNat + 65535) % 65536 ∧
    exec (.jsr target) s = .next t ∧ t.pc = target ∧ t.sp = s.sp - 2 ∧
    t.events = s.events ++ [.write (stackAddr s.sp) hi, .write (stackAddr (s.sp - 1)) lo] ∧
    stored s t [(stackAddr s.sp, hi), (stackAddr (s.sp - 1), lo)] ∧ unchangedBut [.pc, .sp] s t

/-- RTS (R146): the word popped, low byte first (R58), plus 1; SP goes up by 2; nothing else changes but the two reads. -/
def Obligations.RtsReturns : Prop :=
  ∀ s : State, ∃ (lo hi : Byte) (target : Word),
    lo = busValue (stackAddr (s.sp + 1)) s ∧
    hi = busValue (stackAddr (s.sp + 2)) (record [.read (stackAddr (s.sp + 1)) lo] s) ∧
    target.toNat = (256 * hi.toNat + lo.toNat + 1) % 65536 ∧
    exec .rts s = .next { s with
      pc := target
      sp := s.sp + 2
      events := s.events ++ [.read (stackAddr (s.sp + 1)) lo, .read (stackAddr (s.sp + 2)) hi] }

/-- R153 (derived there): RTS executed in any state that has the stack pointer and the two stack bytes JSR left gives back
the PC that follows the JSR and the SP before it. The two stack addresses lie outside the I/O region. -/
def Obligations.JsrThenRtsReturns : Prop :=
  ∀ (target : Word) (s t u : State),
    exec (.jsr target) s = .next t →
    isIo s.ioRegion (stackAddr s.sp) = false → isIo s.ioRegion (stackAddr (s.sp - 1)) = false →
    u.sp = t.sp → u.ioRegion = t.ioRegion →
    u.memory.read (stackAddr s.sp).toNat = t.memory.read (stackAddr s.sp).toNat →
    u.memory.read (stackAddr (s.sp - 1)).toNat = t.memory.read (stackAddr (s.sp - 1)).toNat →
    ∃ r, exec .rts u = .next r ∧ r.pc = s.pc ∧ r.sp = s.sp

/-- BRK, the only trap (R147, R201): the advanced PC is pushed unmodified, high byte first, then the status byte with bits 4
and 5 set; B is set; I is set if `BRK_SETS_I`; PC comes from the vector, low byte read first, after the pushes. A, X, Y,
C, Z, D, V, N and `cycles` are not written. -/
def Obligations.BrkTakesTheTrap : Prop :=
  ∀ s : State, ∃ (p lo hi : Byte) (target : Word) (t : State),
    let pushes : List BusEvent :=
      [.write (stackAddr s.sp) (hi8 s.pc), .write (stackAddr (s.sp - 1)) (lo8 s.pc), .write (stackAddr (s.sp - 2)) p]
    p = pushedStatus s ∧
    lo = (if isIo s.ioRegion 0xFFFE then Config.ioByte (s.events ++ pushes) 0xFFFE else s.memory.read 0xFFFE) ∧
    hi = (if isIo s.ioRegion 0xFFFF then Config.ioByte (s.events ++ pushes ++ [.read 0xFFFE lo]) 0xFFFF
          else s.memory.read 0xFFFF) ∧
    target.toNat = 256 * hi.toNat + lo.toNat ∧
    exec .brk s = .next t ∧ t.pc = target ∧ t.sp = s.sp - 3 ∧ t.b = true ∧ t.i = (s.i || Config.brkSetsI) ∧
    t.events = s.events ++ pushes ++ [.read 0xFFFE lo, .read 0xFFFF hi] ∧
    stored s t [(stackAddr s.sp, hi8 s.pc), (stackAddr (s.sp - 1), lo8 s.pc), (stackAddr (s.sp - 2), p)] ∧
    unchangedBut [.pc, .sp, .b, .i] s t

/-- RTI (R148, R203): the status byte is pulled, then PC, with no adjustment; SP goes up by 3; nothing else changes but the
three reads. -/
def Obligations.RtiReturnsFromTheTrap : Prop :=
  ∀ s : State, ∃ (p lo hi : Byte) (target : Word),
    let e0 := BusEvent.read (stackAddr (s.sp + 1)) p
    let e1 := BusEvent.read (stackAddr (s.sp + 2)) lo
    let e2 := BusEvent.read (stackAddr (s.sp + 3)) hi
    p = busValue (stackAddr (s.sp + 1)) s ∧ lo = busValue (stackAddr (s.sp + 2)) (record [e0] s) ∧
    hi = busValue (stackAddr (s.sp + 3)) (record [e0, e1] s) ∧ target.toNat = 256 * hi.toNat + lo.toNat ∧
    exec .rti s = .next { s with
      c := p.getLsbD 0, z := p.getLsbD 1, i := p.getLsbD 2, d := p.getLsbD 3, b := false, v := p.getLsbD 6
      n := p.getLsbD 7, pc := target, sp := s.sp + 3, events := s.events ++ [e0, e1, e2] }

/-- R153 (derived there): RTI executed in any state that has the stack pointer and the three stack bytes BRK left restores
every flag but B, clears B, and resumes at the byte after the BRK; it holds for either value of `BRK_SETS_I`. The three
stack addresses lie outside the I/O region. -/
def Obligations.BrkThenRtiResumes : Prop :=
  ∀ s t u : State,
    exec .brk s = .next t → u.sp = t.sp → u.ioRegion = t.ioRegion →
    (∀ k : Byte, k.toNat < 3 → isIo s.ioRegion (stackAddr (s.sp - k)) = false ∧
      u.memory.read (stackAddr (s.sp - k)).toNat = t.memory.read (stackAddr (s.sp - k)).toNat) →
    ∃ r, exec .rti u = .next r ∧ r.pc = s.pc ∧ r.sp = s.sp ∧ r.c = s.c ∧ r.z = s.z ∧ r.i = s.i ∧ r.d = s.d ∧
      r.v = s.v ∧ r.n = s.n ∧ r.b = false

/-! ### The stack and the status byte -/

/-- PHA and PHP (R149, R150): one write at the stack address, 0x0100 + SP (R55; the page is a decision of the spec, D13),
then SP goes down by 1, wrapping; no flag changes. -/
def Obligations.PushInstructions : Prop :=
  ∀ s : State, (stackAddr s.sp).toNat = 0x0100 + s.sp.toNat ∧ ∀ p ∈ [(Instr.pha, s.a), (Instr.php, pushedStatus s)],
    ∃ t, exec p.1 s = .next t ∧ t.sp = s.sp - 1 ∧ t.events = s.events ++ [.write (stackAddr s.sp) p.2] ∧
      stored s t [(stackAddr s.sp, p.2)] ∧ unchangedBut [.sp] s t

/-- PLA and PLP (R151, R152): SP goes up by 1, then one read at the new stack address; PLA sets A, Z and N from the byte, PLP
all the flags; nothing else changes. -/
def Obligations.PullInstructions : Prop :=
  ∀ s : State,
    let byte := busValue (stackAddr (s.sp + 1)) s
    let t : State := { s with sp := s.sp + 1, events := s.events ++ [.read (stackAddr (s.sp + 1)) byte] }
    exec .pla s = .next { t with a := byte, z := decide (byte.toNat = 0), n := decide (byte.toNat ≥ 128) } ∧
    exec .plp s = .next { t with
      c := byte.getLsbD 0, z := byte.getLsbD 1, i := byte.getLsbD 2, d := byte.getLsbD 3, b := false
      v := byte.getLsbD 6, n := byte.getLsbD 7 }

/-- R36, the pushed status byte: the byte that PHP writes at the stack address, and the one that BRK writes below the two
bytes of PC, hold N, V, 1, 1, D, I, Z, C in bits 7 to 0, whatever the stored B is. -/
def Obligations.PushedStatusByte : Prop :=
  ∀ s : State, ∃ (p : Byte) (t u : State) (before after : List BusEvent),
    exec .php s = .next t ∧ t.events = s.events ++ [.write (stackAddr s.sp) p] ∧
    exec .brk s = .next u ∧ u.events = s.events ++ before ++ [.write (stackAddr (s.sp - 2)) p] ++ after ∧
    before.length = 2 ∧ after.length = 2 ∧
    p.getLsbD 7 = s.n ∧ p.getLsbD 6 = s.v ∧ p.getLsbD 5 = true ∧ p.getLsbD 4 = true ∧ p.getLsbD 3 = s.d ∧
    p.getLsbD 2 = s.i ∧ p.getLsbD 1 = s.z ∧ p.getLsbD 0 = s.c

/-- R37, the status write: after PLP and after RTI every flag is its bit of the byte pulled, B is clear, so the status byte P
is that byte with bit 4 cleared and bit 5 set, `P <- (b & 0xEF) | 0x20`; and every flag counts as set in the sense of R21
(`Safety.cellSets`). -/
def Obligations.PulledStatusByte : Prop :=
  ∀ s : State, ∀ i ∈ [Instr.plp, Instr.rti],
    let b := busValue (stackAddr (s.sp + 1)) s
    (∃ t, exec i s = .next t ∧ t.c = b.getLsbD 0 ∧ t.z = b.getLsbD 1 ∧ t.i = b.getLsbD 2 ∧ t.d = b.getLsbD 3 ∧ t.b = false ∧
      t.v = b.getLsbD 6 ∧ t.n = b.getLsbD 7 ∧ statusByte t = (b &&& 0xEF) ||| 0x20) ∧
    ∀ r ∈ ([.c, .z, .i, .d, .v, .n] : List RegCell), r ∈ cellSets i

/-- R17: bit 5 of P is 1 in every state, in the bytes that PHP and BRK push, and in P after PLP and after RTI; the other bits
of P are the flags at their places (R35). -/
def Obligations.StatusBit5AlwaysOne : Prop :=
  ∀ s : State,
    (statusByte s).getLsbD 5 = true ∧
    (statusByte s).toNat = 128 * s.n.toNat + 64 * s.v.toNat + 32 + 16 * s.b.toNat + 8 * s.d.toNat + 4 * s.i.toNat +
      2 * s.z.toNat + s.c.toNat ∧
    (∃ t p, exec .php s = .next t ∧ t.events = s.events ++ [.write (stackAddr s.sp) p] ∧ p.getLsbD 5 = true) ∧
    (∃ t p, ∃ before after : List BusEvent, exec .brk s = .next t ∧ before.length = 2 ∧ after.length = 2 ∧
      t.events = s.events ++ before ++ [.write (stackAddr (s.sp - 2)) p] ++ after ∧ p.getLsbD 5 = true) ∧
    (∀ i ∈ [Instr.plp, Instr.rti], ∃ t, exec i s = .next t ∧ (statusByte t).getLsbD 5 = true)

/-- R153 (derived there): PHP and then PLP, with the stack address outside the I/O region, leave every flag but B, clear B,
and restore SP; every other register is as before. -/
def Obligations.PhpThenPlpRoundTrip : Prop :=
  ∀ s : State, isIo s.ioRegion (stackAddr s.sp) = false →
    ∃ t u, exec .php s = .next t ∧ exec .plp t = .next u ∧ u.b = false ∧ unchangedBut [.b] s u

/-! ### Flags, transfers, loads, stores, no-operations -/

/-- CLC, CLD, CLI, CLV, SEC, SED, SEI (R160 to R166): one flag is written and no other state is touched. -/
def Obligations.FlagInstructionsWriteOneFlag : Prop :=
  ∀ s : State,
    exec .clc s = .next { s with c := false } ∧ exec .cld s = .next { s with d := false } ∧
    exec .cli s = .next { s with i := false } ∧ exec .clv s = .next { s with v := false } ∧
    exec .sec s = .next { s with c := true } ∧ exec .sed s = .next { s with d := true } ∧
    exec .sei s = .next { s with i := true }

/-- TAX, TAY, TSX, TXA, TXS, TYA (R167 to R172): a register copy; Z and N from the copied byte, except that TXS changes no
flag; nothing else changes. -/
def Obligations.TransfersCopyRegisters : Prop :=
  ∀ s : State,
    exec .tax s = .next { s with x := s.a, z := decide (s.a.toNat = 0), n := decide (s.a.toNat ≥ 128) } ∧
    exec .tay s = .next { s with y := s.a, z := decide (s.a.toNat = 0), n := decide (s.a.toNat ≥ 128) } ∧
    exec .tsx s = .next { s with x := s.sp, z := decide (s.sp.toNat = 0), n := decide (s.sp.toNat ≥ 128) } ∧
    exec .txa s = .next { s with a := s.x, z := decide (s.x.toNat = 0), n := decide (s.x.toNat ≥ 128) } ∧
    exec .txs s = .next { s with sp := s.x } ∧
    exec .tya s = .next { s with a := s.y, z := decide (s.y.toNat = 0), n := decide (s.y.toNat ≥ 128) }

/-- LDA, LDX, LDY (R173 to R175) and LAX (R192): the operand byte goes to the register (LAX: to A and X), Z and N from it,
nothing else changes; LAX reads its address once. -/
def Obligations.LoadsSetRegisterZeroNegative : Prop :=
  ∀ (o : Value) (m : Mem) (s : State),
    let byte := (resolveValue o s).1
    let u := (resolveValue o s).2
    let laxByte := busValue (effAddr m s).1 (effAddr m s).2
    exec (.lda o) s = .next { u with a := byte, z := decide (byte.toNat = 0), n := decide (byte.toNat ≥ 128) } ∧
    exec (.ldx o) s = .next { u with x := byte, z := decide (byte.toNat = 0), n := decide (byte.toNat ≥ 128) } ∧
    exec (.ldy o) s = .next { u with y := byte, z := decide (byte.toNat = 0), n := decide (byte.toNat ≥ 128) } ∧
    exec (.lax m) s = .next { (effAddr m s).2 with
      a := laxByte, x := laxByte, z := decide (laxByte.toNat = 0), n := decide (laxByte.toNat ≥ 128)
      events := (effAddr m s).2.events ++ [.read (effAddr m s).1 laxByte] }

/-- STA, STX, STY (R176 to R178) and SAX (R193): exactly one write, at the effective address, of the register (SAX: of A and
X bit by bit), no data read and no flag effect; no register changes. -/
def Obligations.StoresWriteOneByte : Prop :=
  ∀ (m : Mem) (s : State),
    let ea := (effAddr m s).1
    ∀ p ∈ [(Instr.sta m, s.a), (Instr.stx m, s.x), (Instr.sty m, s.y), (Instr.sax m, s.a &&& s.x)],
      ∃ t, exec p.1 s = .next t ∧ stored s t [(ea, p.2)] ∧
        t.events = (effAddr m s).2.events ++ [.write ea p.2] ∧ unchangedBut [] s t

/-- R59, R62, R224 (decisions of the spec): a byte stored outside the I/O region, by STA in any mode, is the byte that the
next read of that address gets: an opcode fetch there, or a data read (here LDX of that address). -/
def Obligations.StoredByteIsReadBack : Prop :=
  ∀ (m : Mem) (s : State), isIo s.ioRegion (effAddr m s).1 = false →
    ∃ t u, exec (.sta m) s = .next t ∧ (t.pc = (effAddr m s).1 → (fetchOpcode t).1 = s.a) ∧
      exec (.ldx (.mem (.abs (effAddr m s).1))) t = .next u ∧ u.x = s.a

/-- NOP, NOP*, DOP and TOP (R179, R194 to R196): no effect but, for DOP and TOP, the reads of resolving the operand (R73). -/
def Obligations.NoOperationsDoNothing : Prop :=
  ∀ (opcode : Byte) (o : Value) (s : State),
    exec .nop s = .next s ∧ exec (.nopU opcode) s = .next s ∧
    exec (.dop opcode o) s = .next (resolveValue o s).2 ∧ exec (.top opcode o) s = .next (resolveValue o s).2

/-! ### Undocumented compositions -/

/-- R185: SLO, SRE, RLA, RRA, DCP and ISC are the two documented instructions they are made of, against the same effective
address, with a new read of it between them: the first primitive's own instruction gives `t`, the address is read again,
and the second primitive's own instruction on the byte that read gives is the composition's result, flags and all. The bus
sees, after the mode's pointer reads, read, write, read of the address; `cycles` is not written. -/
def Obligations.CompositionsAreTheirPrimitives : Prop :=
  ∀ (m : Mem) (s : State),
    let ea := (effAddr m s).1
    ∀ p ∈ [(Instr.slo m, Instr.asl (.mem m), Instr.ora), (Instr.sre m, Instr.lsr (.mem m), Instr.eor),
           (Instr.rla m, Instr.rol (.mem m), Instr.and), (Instr.rra m, Instr.ror (.mem m), Instr.adc),
           (Instr.dcp m, Instr.dec m, Instr.cmp), (Instr.isc m, Instr.inc m, Instr.sbc)],
      ∃ (t u : State) (w : Byte), exec p.2.1 s = .next t ∧
        exec (p.2.2 (.imm (busValue ea t))) (record [.read ea (busValue ea t)] t) = .next u ∧ exec p.1 s = .next u ∧
        u.events = (effAddr m s).2.events ++
          [.read ea (busValue ea (effAddr m s).2), .write ea w, .read ea (busValue ea t)] ∧
        u.cycles = s.cycles

/-- What R185's second read gives: outside the I/O region the byte just written (derived, R48), and the one byte stored is the
one the write event carries. -/
def Obligations.CompositionsReadWriteRead : Prop :=
  ∀ (m : Mem) (s : State),
    let ea := (effAddr m s).1
    ∀ i ∈ [Instr.slo m, Instr.sre m, Instr.rla m, Instr.rra m, Instr.dcp m, Instr.isc m],
      ∃ (t : State) (r v : Byte), exec i s = .next t ∧
        t.events = (effAddr m s).2.events ++ [.read ea (busValue ea (effAddr m s).2), .write ea r, .read ea v] ∧
        stored s t [(ea, r)] ∧ (isIo s.ioRegion ea = false → v = r)

/-- What the compositions leave for RAM (derived in R186 to R191 from R48): the byte stored, and A or the carry of the
compare, with every other register but A and the flags they name unchanged. -/
def Obligations.CompositionResultsInRam : Prop :=
  ∀ (m : Mem) (s : State),
    let ea := (effAddr m s).1
    let old := (busValue ea (effAddr m s).2).toNat
    isIo s.ioRegion ea = false →
    (∃ (r : Byte) (t : State), r.toNat = 2 * old % 256 ∧ exec (.slo m) s = .next t ∧ stored s t [(ea, r)] ∧
      t.a = s.a ||| r ∧ t.c = decide (old ≥ 128) ∧ unchangedBut [.a, .c, .z, .n] s t) ∧
    (∃ (r : Byte) (t : State), r.toNat = old / 2 ∧ exec (.sre m) s = .next t ∧ stored s t [(ea, r)] ∧
      t.a = s.a ^^^ r ∧ t.c = decide (old % 2 = 1) ∧ unchangedBut [.a, .c, .z, .n] s t) ∧
    (∃ (r : Byte) (t : State), r.toNat = (2 * old + s.c.toNat) % 256 ∧ exec (.rla m) s = .next t ∧ stored s t [(ea, r)] ∧
      t.a = s.a &&& r ∧ t.c = decide (old ≥ 128) ∧ unchangedBut [.a, .c, .z, .n] s t) ∧
    (∃ (r : Byte) (t : State), r.toNat = old / 2 + 128 * s.c.toNat ∧ exec (.rra m) s = .next t ∧ stored s t [(ea, r)] ∧
      t.a.toNat = (s.a.toNat + r.toNat + old % 2) % 256 ∧ t.c = decide (s.a.toNat + r.toNat + old % 2 > 255) ∧
      unchangedBut [.a, .c, .v, .z, .n] s t) ∧
    (∃ (r : Byte) (t : State), r.toNat = (old + 255) % 256 ∧ exec (.dcp m) s = .next t ∧ stored s t [(ea, r)] ∧
      t.c = decide (r.toNat ≤ s.a.toNat) ∧ t.z = decide (s.a = r) ∧ unchangedBut [.c, .z, .n] s t) ∧
    (∃ (r : Byte) (t : State), r.toNat = (old + 1) % 256 ∧ exec (.isc m) s = .next t ∧ stored s t [(ea, r)] ∧
      (t.a.toNat : Int) = ((s.a.toNat : Int) - r.toNat - (1 - s.c.toNat)) % 256 ∧
      t.c = decide ((s.a.toNat : Int) - r.toNat - (1 - s.c.toNat) ≥ 0) ∧ unchangedBut [.a, .c, .v, .z, .n] s t)

/-! ### Operands and the bus -/

/-- R79 to R84, R87, R88 (the spec's decision D3): the effective address of every mode; zero-page indexing and zero-page
pointers wrap in page 0, absolute indexing and IZY's sum wrap modulo 2^16; a pointer's low byte is read first. -/
def Obligations.EffectiveAddresses : Prop :=
  ∀ (b : Byte) (w : Word) (s : State),
    (effAddr (.zp b) s).1.toNat = b.toNat ∧
    (effAddr (.zpx b) s).1.toNat = (b.toNat + s.x.toNat) % 256 ∧
    (effAddr (.zpy b) s).1.toNat = (b.toNat + s.y.toNat) % 256 ∧
    (effAddr (.abs w) s).1 = w ∧
    (effAddr (.abx w) s).1.toNat = (w.toNat + s.x.toNat) % 65536 ∧
    (effAddr (.aby w) s).1.toNat = (w.toNat + s.y.toNat) % 65536 ∧
    (∃ (p q : Word) (lo hi : Byte), p.toNat = (b.toNat + s.x.toNat) % 256 ∧ q.toNat = (b.toNat + s.x.toNat + 1) % 256 ∧
      lo = busValue p s ∧ hi = busValue q (record [.read p lo] s) ∧
      (effAddr (.izx b) s).2 = record [.read p lo, .read q hi] s ∧
      (effAddr (.izx b) s).1.toNat = 256 * hi.toNat + lo.toNat) ∧
    (∃ (p q : Word) (lo hi : Byte), p.toNat = b.toNat ∧ q.toNat = (b.toNat + 1) % 256 ∧
      lo = busValue p s ∧ hi = busValue q (record [.read p lo] s) ∧
      (effAddr (.izy b) s).2 = record [.read p lo, .read q hi] s ∧
      (effAddr (.izy b) s).1.toNat = (256 * hi.toNat + lo.toNat + s.y.toNat) % 65536)

/-- R71: resolving an operand only issues reads: the mode's pointer reads (R86 to R88), and for a VALUE operand in a memory
mode one more. It changes nothing but the event history. R73 (decision D7 of the spec): the byte of a VALUE operand is
the immediate byte with no read, or the one read of the effective address after the mode's pointer reads. -/
def Obligations.ResolvingOnlyReads : Prop :=
  ∀ (m : Mem) (o : Value) (j : JumpTarget) (s : State),
    (∃ es : List BusEvent, es.length = pointerReads m.mode ∧ (∀ e ∈ es, isRead e = true) ∧ (effAddr m s).2 = record es s) ∧
    (∃ es : List BusEvent, es.length = pointerReads o.mode + (if o.mode = .imm then 0 else 1) ∧
      (∀ e ∈ es, isRead e = true) ∧ (resolveValue o s).2 = record es s) ∧
    (∃ es : List BusEvent, es.length = pointerReads j.mode ∧ (∀ e ∈ es, isRead e = true) ∧ (jumpTarget j s).2 = record es s) ∧
    (∀ b : Byte, resolveValue (.imm b) s = (b, s)) ∧
    resolveValue (.mem m) s =
      (busValue (effAddr m s).1 (effAddr m s).2,
       record [.read (effAddr m s).1 (busValue (effAddr m s).1 (effAddr m s).2)] (effAddr m s).2)

/-- R52 (derived there): every instruction issues exactly as many reads as the pointer reads of its mode and the data reads
of the table of R52 together, exactly the data writes of that table, and so no dummy access. It counts; the order of the
events is in the statements of the instructions. -/
def Obligations.BusEventsOfEveryInstruction : Prop :=
  ∀ (i : Instr) (s t : State), exec i s = .next t →
    ∃ es : List BusEvent, t.events = s.events ++ es ∧
      es.countP isRead = pointerReads i.mode + dataReads i ∧
      es.countP (fun e => !isRead e) = dataWrites i

/-! ### Frames of the whole machine -/

/-- 10_state.md R23 to R39, the "Written by" lists: whatever instruction runs, a register, flag, the cycle counter, the fault
mark or the parameter `IO_REGION` changes only if its rule names the instruction as a writer (`Safety.writes`). -/
def Obligations.OnlyNamedWritersWrite : Prop :=
  ∀ (i : Instr) (s t : State) (f : Field), exec i s = .next t → writes i f = false → same s t f

/-- Every instruction leaves every byte of memory as it was, except the addresses it stores to (`Safety.storeAddrs`), each of
which is computed as its rule says: the effective address of a store or a read-modify-write, the stack addresses of a
push. An instruction that stores nothing changes no byte. R48: a store into the I/O region is recorded and has no
further meaning, so no byte of memory in the region changes. -/
def Obligations.OnlyStoredAddressesChange : Prop :=
  ∀ (i : Instr) (s t : State), exec i s = .next t →
    (∀ k, (∀ a ∈ storeAddrs i s, k ≠ a.toNat) → t.memory.read k = s.memory.read k) ∧
    (∀ a : Word, isIo s.ioRegion a = true → t.memory.read a.toNat = s.memory.read a.toNat)

/-- R226: a step adds 0, 1 or 2 to `cycles`, and adds something only when the instruction is a branch. -/
def Obligations.OnlyBranchesAddCycles : Prop :=
  ∀ s t : State, step s = .next t →
    (t.cycles = s.cycles ∨ t.cycles = s.cycles + 1 ∨ t.cycles = s.cycles + 2) ∧
    ((fetch s).1.mode ≠ .rel → t.cycles = s.cycles)

/-- R132: D has no effect on any instruction of 41_arith_logic.md: with another D the same next state results, but for D; and
ADC and SBC compute in binary whatever D holds. -/
def Obligations.DecimalFlagIsInert : Prop :=
  ∀ (i : Instr) (s : State) (d : Bool),
    (i.op ∈ ([.adc, .sbc, .and, .ora, .eor, .asl, .lsr, .rol, .ror, .cmp, .cpx, .cpy, .bit, .inc, .dec, .inx, .iny, .dex,
      .dey] : List Op) →
      ∃ t, exec i s = .next t ∧ exec i { s with d := d } = .next { t with d := d }) ∧
    (∀ o : Value, ∃ t u, exec (.adc o) { s with d := d } = .next t ∧ exec (.sbc o) { s with d := d } = .next u ∧
      t.a.toNat = (s.a.toNat + (resolveValue o s).1.toNat + s.c.toNat) % 256 ∧
      (u.a.toNat : Int) = ((s.a.toNat : Int) - (resolveValue o s).1.toNat - (1 - s.c.toNat)) % 256)

/-- R32 ("No instruction reads the stored B") and R30 ("No rule of this block reads I to decide anything"; only PHP and BRK
read it, into the pushed byte): with another B any instruction gives the same next state but for B, and with another I
any instruction but PHP and BRK gives the same next state but for I. -/
def Obligations.BreakAndInterruptFlagsDecideNothing : Prop :=
  ∀ (i : Instr) (s t : State) (f : Bool), exec i s = .next t →
    (∃ u, exec i { s with b := f } = .next u ∧ u = { t with b := u.b }) ∧
    (i.op ≠ .php → i.op ≠ .brk → ∃ u, exec i { s with i := f } = .next u ∧ u = { t with i := u.i })

/-! ### Encoding and decoding -/

/-- Words written out from the "Encoding" lines of the rules decode to the instructions they stand for (30_encoding.md R65,
R89; the byte values are the spec's general knowledge). -/
def Obligations.DecodeSamples : Prop :=
  decodeTableWord 16 0x4269 = some (.adc (.imm 0x42)) ∧ decodeTableWord 16 0x10E1 = some (.sbc (.mem (.izx 0x10))) ∧
  decodeTableWord 8 0x0A = some (.asl .acc) ∧ decodeTableWord 24 0x02007E = some (.ror (.mem (.abx 0x0200))) ∧
  decodeTableWord 16 0x03C0 = some (.cpy (.imm 0x03)) ∧ decodeTableWord 16 0x30E6 = some (.inc (.zp 0x30)) ∧
  decodeTableWord 16 0xF8D0 = some (.bne 0xF8) ∧ decodeTableWord 24 0x02FF6C = some (.jmp (.ind 0x02FF)) ∧
  decodeTableWord 24 0x061020 = some (.jsr 0x0610) ∧ decodeTableWord 8 0x00 = some .brk ∧
  decodeTableWord 8 0x28 = some .plp ∧ decodeTableWord 8 0x78 = some .sei ∧ decodeTableWord 8 0xBA = some .tsx ∧
  decodeTableWord 16 0x3091 = some (.sta (.izy 0x30)) ∧ decodeTableWord 16 0x1096 = some (.stx (.zpy 0x10)) ∧
  decodeTableWord 24 0x1234BE = some (.ldx (.mem (.aby 0x1234))) ∧ decodeTableWord 16 0x30D3 = some (.dcp (.izy 0x30)) ∧
  decodeTableWord 16 0xFF80 = some (.dop 0x80 (.imm 0xFF)) ∧
  decodeTableWord 24 0x20000C = some (.top 0x0C (.mem (.abs 0x2000))) ∧ decodeTableWord 8 0x1A = some (.nopU 0x1A) ∧
  decodeTableWord 16 0x01EB = some (.sbcU 0x01) ∧ decodeTableWord 8 0x02 = some (.unassigned 0x02)

/-- R67, R68, R69, R90 (the map is the spec's decision D2): the dispatch ROM has 256 entries, 151 documented, 80 undocumented
and 25 unassigned, those of R90; every operation has the operand kind R68 gives it, a shift or rotate by its mode; and
every opcode byte has the length that R69 gives its mode. -/
def Obligations.DispatchRomCountsAndKinds : Prop :=
  rom.length = 256 ∧
  rom.countP (fun e => e.op ∈ ([.slo, .sre, .rla, .rra, .dcp, .isc, .lax, .sax, .dop, .top, .nopU, .sbcU] : List Op)) = 80 ∧
  rom.countP (fun e => e.op = .unassigned) = 25 ∧
  (∀ b : Byte, (dispatch b).op = .unassigned ↔ b ∈ unassignedBytes) ∧
  (∀ e ∈ rom, e.op ∈ ([.adc, .sbc, .sbcU, .and, .ora, .eor, .cmp, .cpx, .cpy, .lda, .ldx, .ldy, .dop, .top] : List Op) →
    e.kind = .value) ∧
  (∀ e ∈ rom, e.op ∈ ([.inc, .dec, .bit, .jmp, .jsr, .sta, .stx, .sty, .slo, .sre, .rla, .rra, .dcp, .isc, .lax, .sax] :
    List Op) → e.kind = .address) ∧
  (∀ e ∈ rom, e.op ∈ ([.asl, .lsr, .rol, .ror] : List Op) → e.kind = if e.mode = .acc then .accumulator else .address) ∧
  (∀ b : Byte, lengthOf b =
    if (dispatch b).mode ∈ ([.imp, .acc] : List Mode) then 1
    else if (dispatch b).mode ∈ ([.abs, .abx, .aby, .ind] : List Mode) then 3 else 2) ∧
  (∀ e ∈ rom, e.op ∈ ([.bcc, .bcs, .beq, .bne, .bmi, .bpl, .bvc, .bvs] : List Op) → e.kind = .relative) ∧
  (∀ e ∈ rom, e.op ∈ ([.brk, .rti, .rts, .pha, .php, .pla, .plp, .clc, .cld, .cli, .clv, .sec, .sed, .sei, .tax, .tay, .tsx,
    .txa, .txs, .tya, .inx, .iny, .dex, .dey, .nop, .nopU] : List Op) → e.kind = .implied)

/-- Decoding an encoded instruction gives it back with the bytes after it, for every well-formed instruction and every value
of its operands (R65, R89, and the "Encoding" line of every instruction rule). -/
def Obligations.DecodeInvertsEncode : Prop :=
  ∀ (i : Instr) (rest : List Byte), wellFormed i = true → decode (encode i ++ rest) = .ok (i, rest)

/-- The other direction: every opcode byte, followed by two bytes or more, decodes (R66, R67: each of the 256 has a meaning);
and whatever bytes decode, they decode to a well-formed instruction and are its encoding. -/
def Obligations.EncodeInvertsDecode : Prop :=
  (∀ (b0 b1 b2 : Byte) (bs : List Byte), ∃ i rest, decode (b0 :: b1 :: b2 :: bs) = .ok (i, rest)) ∧
  ∀ (bs rest : List Byte) (i : Instr), decode bs = .ok (i, rest) → wellFormed i = true ∧ bs = encode i ++ rest

/-! ### The step -/

/-- R70: a step of a block with no fault reads the bytes at PC, as many as the instruction has, each one bus read, advances PC
past them (not past an unassigned byte, R72), and is the decoded instruction's meaning in that state. -/
def Obligations.StepRunsDecodedInstruction : Prop :=
  ∀ (s : State) (i : Instr) (rest : List Byte), s.fault = none →
    let b0 := busValue s.pc s
    let e0 := BusEvent.read s.pc b0
    let b1 := busValue (s.pc + 1) (record [e0] s)
    let e1 := BusEvent.read (s.pc + 1) b1
    let b2 := busValue (s.pc + 2) (record [e0, e1] s)
    let e2 := BusEvent.read (s.pc + 2) b2
    decode [b0, b1, b2] = .ok (i, rest) →
      step s = exec i { s with
        pc := s.pc + BitVec.ofNat 16 (if i.op = .unassigned then 0 else 3 - rest.length)
        events := s.events ++ [e0, e1, e2].take (3 - rest.length) }

/-- The model's own loading function (log entry 9): whatever the state, the step after an instruction word is placed runs the
instruction that the decoder reads from that word. -/
def Obligations.FetchWordIsRunNext : Prop :=
  ∀ (s : State) (nbits w : Nat) (i : Instr), decodeTableWord nbits w = some i →
    ∃ es : List BusEvent, es.length = i.mode.length ∧ (∀ e ∈ es, isRead e = true) ∧
      step (s.withFetchWord nbits w) = exec i { record es (s.withFetchWord nbits w) with
        pc := s.pc + BitVec.ofNat 16 (if i.op = .unassigned then 0 else i.mode.length) }

/-- R72: a block with no fault completes its step with a next state, unless the opcode byte it fetches is one of the 25 of
R90, and then the step ends in the fault `UnassignedOpcode`. That the machine's step has no other way to stop is the
model's choice (log entry 1, DESIGN CHOICE): R14 and R200 name a second fault, `UninitRead`, and a register of the
machine always holds a value. The spec's step with that fault is `trackedStep` (`SpecStepFaultsOnUnsetCell`). -/
def Obligations.StepCompletesUnlessUnassigned : Prop :=
  ∀ s : State, s.fault = none →
    ((∃ t, step s = .next t) ↔ busValue s.pc s ∉ unassignedBytes) ∧
    (busValue s.pc s ∈ unassignedBytes → step s = .fault (.unassignedOpcode (busValue s.pc s)))

/-- R72 (decision D5 of the spec): the meaning of an unassigned byte is the fault, and the state the host then sees has the
opcode fetch recorded and the fault marked, with PC on the opcode byte and everything else unchanged. -/
def Obligations.UnassignedByteFaults : Prop :=
  (∀ (opcode : Byte) (s : State), exec (.unassigned opcode) s = .fault (.unassignedOpcode opcode)) ∧
  (∀ s : State, s.fault = none → busValue s.pc s ∈ unassignedBytes →
    hostStep s = { s with
      fault := some (.unassignedOpcode (busValue s.pc s))
      events := s.events ++ [.read s.pc (busValue s.pc s)] })

/-- R39, R214 (decision D29 of the spec): once the fault mark is set, to `UnassignedOpcode` or to `UninitRead`, no step, reset
or external action changes anything, neither of the machine nor of the block with unset cells. -/
def Obligations.FaultIsFinal : Prop :=
  ∀ r : Fault,
    (∀ (s : State) (f : State → State), s.fault = some r →
      step s = .fault r ∧ hostStep s = s ∧ hostReset s = s ∧ hostExternal f s = s) ∧
    (∀ (t : Tracked) (f : Tracked → Tracked), t.state.fault = some r →
      trackedStep t = .fault r ∧ trackedHostStep t = t ∧ trackedReset t = t ∧ trackedExternal f t = t)

/-- R229, R144: at a halt address the step jumps to itself: nothing changes but the bus history, which gains the three reads
of the fetch, and the block is at the halt address again. -/
def Obligations.HaltLoopsForever : Prop :=
  ∀ s : State, atHalt s → ∃ t, step s = .next t ∧ unchangedBut [] s t ∧ t.memory = s.memory ∧
    t.events = s.events ++ [.read s.pc 0x4C, .read (s.pc + 1) (lo8 s.pc), .read (s.pc + 2) (hi8 s.pc)] ∧ atHalt t

/-! ### Reset -/

/-- R220 (decision D17 of the spec): the reset operation sets SP to 0xFD and I, clears B, and loads PC from the vector at
0xFFFC with exactly two reads; nothing else changes. -/
def Obligations.ResetOperation : Prop :=
  ∀ s : State, s.fault = none → ∃ (lo hi : Byte) (target : Word),
    lo = busValue 0xFFFC s ∧ hi = busValue 0xFFFD (record [.read 0xFFFC lo] s) ∧
    target.toNat = 256 * hi.toNat + lo.toNat ∧
    hostReset s = { s with
      sp := 0xFD, i := true, b := false, pc := target
      events := s.events ++ [.read 0xFFFC lo, .read 0xFFFD hi] }

/-- The table of R40 (R21, R220, R221; decisions D12, D17, D18, D20 of the spec). A constructed block: every register and
flag but B unset, B clear, no cycles, no fault, no bus event. The reset operation on a block that has no fault: SP is
0xFD, I is set, B is clear and PC is the word at the vector; every other cell is unchanged, unset if it was unset. The
machine's own reset state is that operation on a constructed block with nothing listed in memory and an empty I/O
region. These two are the model's choices (log entries 2 and 5), and so are the values of A, X, Y, C, Z, D, V, N and PC
(log entries 1 and 2), which are not stated; SP, I, B, `cycles` and the fault mark are the spec's. -/
def Obligations.ResetStateValues : Prop :=
  (∀ (m : Memory) (region : List IoRange),
    (trackedPowerOn m region).view =
      { a := none, x := none, y := none, sp := none, pc := none, c := none, z := none, i := none, d := none, b := false
        v := none, n := none, cycles := 0, fault := none } ∧
    (trackedPowerOn m region).state.memory = m ∧ (trackedPowerOn m region).state.events = []) ∧
  (∀ t : Tracked, t.state.fault = none → ∃ (lo hi : Byte) (target : Word),
    lo = busValue 0xFFFC t.state ∧ hi = busValue 0xFFFD (record [.read 0xFFFC lo] t.state) ∧
    target.toNat = 256 * hi.toNat + lo.toNat ∧
    (trackedReset t).view = { t.view with sp := some 0xFD, pc := some target, i := some true, b := false }) ∧
  State.reset.sp = 0xFD ∧ State.reset.i = true ∧ State.reset.b = false ∧ State.reset.cycles = 0 ∧
  State.reset.fault = none ∧ State.reset.memory = [] ∧ State.reset.ioRegion = [] ∧
  State.reset = (trackedReset (trackedPowerOn [] [])).state ∧ hostReset (powerOn [] []) = State.reset

/-! ### Invariants -/

/-- The canonical form of the memory list, one list for each memory, is the model's own (log entries 2 and 6; the spec has a
bus oracle, R48, and no list). Every step keeps it, from every state that has it. -/
def Obligations.StepKeepsMemoryCanonical : Prop :=
  ∀ s t : State, s.memory.wf → step s = .next t → t.memory.wf

/-- R48, R59: every step, and the reset operation, keeps memory and the bus history those of one bus: outside the I/O region
each address holds the byte of the latest write in the history or, if there is none, a draw of its own, and every read of
the history, each fetch included, was answered by that rule at its place in the history. It holds for every draw. -/
def Obligations.StepKeepsBusCoherent : Prop :=
  ∀ (draw : Word → Byte) (s t : State), busCoherent draw s →
    (step s = .next t → busCoherent draw t) ∧ busCoherent draw (hostReset s)

/-- The two invariants hold where runs begin. The reset state has the canonical form, and its bus is coherent with every
address's draw being the zero that log entry 2 chose. A block constructed over any memory is coherent with that memory as
the draw (R48), and has the canonical form if that memory has it. -/
def Obligations.ResetHasInvariants : Prop :=
  State.reset.memory.wf ∧ busCoherent (fun _ => Config.unlistedByte) State.reset ∧
  ∀ (m : Memory) (region : List IoRange),
    busCoherent (fun a => m.read a.toNat) (powerOn m region) ∧ (m.wf → (powerOn m region).memory.wf)

/-! ### Unset cells -/

/-- R22 (decision D18 of the spec): the spec's step on a block that has no fault. If PC is unset, it ends in `UninitRead(PC)`,
and nothing else changes (R214). If PC is set but a cell that the fetched instruction reads is not, it ends in
`UninitRead` of the first such cell in the order of the reads. If PC and every cell that the instruction reads are set, it
is the machine's step, and the cells that the instruction sets are set after it. So a next state is always the machine's
own. -/
def Obligations.SpecStepFaultsOnUnsetCell : Prop :=
  ∀ t : Tracked, t.state.fault = none →
    let reads := (cellReads (fetch t.state).1 (fetch t.state).2).map CellRead.cell
    let after := t.set ++ cellSets (fetch t.state).1
    (.pc ∉ t.set →
      trackedStep t = .fault (.uninitRead .pc) ∧
      trackedHostStep t = { t with state := { t.state with fault := some (.uninitRead .pc) } }) ∧
    (.pc ∈ t.set → ∀ earlier r later, reads = earlier ++ r :: later → (∀ q ∈ earlier, q ∈ t.set) → r ∉ t.set →
      trackedStep t = .fault (.uninitRead r)) ∧
    (.pc ∈ t.set → (∀ r ∈ reads, r ∈ t.set) →
      trackedStep t = trackOutcome after (step t.state) ∧ trackedHostStep t = ⟨after, hostStep t.state⟩) ∧
    (∀ u, trackedStep t = .next u → step t.state = .next u.state)

/-- R21, R22: the values that unset cells hold make no difference to any run. From two states that agree on the set cells and
on everything else, a run of the spec's steps goes through the same fault or ends in states that agree on the cells set by
then; and the blocks that the host sees, also after a fault, agree in the same way. So no run of the spec can see the
reset values that log entry 1 chose. -/
def Obligations.UnsetCellsNeverMatter : Prop :=
  ∀ (k : Nat) (t u : Tracked), t.set = u.set → agreeOn t.set t.state u.state →
    (∀ t', trackedRun k t = .next t' →
      ∃ u', trackedRun k u = .next u' ∧ u'.set = t'.set ∧ agreeOn t'.set t'.state u'.state) ∧
    (∀ r, trackedRun k t = .fault r → trackedRun k u = .fault r) ∧
    (trackedHostRun k u).set = (trackedHostRun k t).set ∧
    agreeOn (trackedHostRun k t).set (trackedHostRun k t).state (trackedHostRun k u).state ∧
    (trackedHostRun k u).view = (trackedHostRun k t).view

/-- R22, R202, R214: what an `UninitRead` inside an instruction leaves. The mark names the cell, which stays unset, and PC is
the advanced PC. The bus events are the first ones of the instruction as the machine runs it, exactly those that stand
before the read (`eventsBeforeRead`), and their writes are the bytes stored. BRK has then pushed PC, with SP down by 2,
when it reads the flags; a composition has set the flags of its first primitive when it reads A, or C after A (DCP's first
primitive sets none, R190). Nothing else has changed. -/
def Obligations.UninitReadKeepsPrecedingEffects : Prop :=
  ∀ (t : Tracked) (r : RegCell), t.state.fault = none → .pc ∈ t.set → trackedStep t = .fault (.uninitRead r) →
    let i := (fetch t.state).1
    let s := (fetch t.state).2
    let u := trackedHostStep t
    ∃ (es later : List BusEvent) (v : State),
      exec i s = .next v ∧ u.state.events = s.events ++ es ∧ v.events = u.state.events ++ later ∧
      es.length = eventsBeforeRead i r ∧ stored s u.state (writesOf es) ∧
      u.state.fault = some (.uninitRead r) ∧ r ∉ u.set ∧ u.state.pc = s.pc ∧
      unchangedBut [.sp, .c, .z, .n, .fault] s u.state ∧
      u.state.sp = (if i.op = .brk ∧ r ≠ .sp then s.sp - 2 else s.sp) ∧
      (i.op ∉ compositions ∨ writesOf es = [] → u.set = t.set ∧ u.state.c = s.c ∧ u.state.z = s.z ∧ u.state.n = s.n) ∧
      ∀ m : Mem, ∀ p ∈ [(Instr.slo m, Instr.asl (.mem m), [RegCell.c, .z, .n]), (Instr.sre m, Instr.lsr (.mem m), [.c, .z, .n]),
          (Instr.rla m, Instr.rol (.mem m), [.c, .z, .n]), (Instr.rra m, Instr.ror (.mem m), [.c, .z, .n]),
          (Instr.dcp m, Instr.dec m, []), (Instr.isc m, Instr.inc m, [.z, .n])],
        i = p.1 → writesOf es ≠ [] →
          u.set = t.set ++ p.2.2 ∧ ∃ w, exec p.2.1 s = .next w ∧ u.state.c = w.c ∧
            u.state.z = (if i.op = .dcp then s.z else w.z) ∧ u.state.n = (if i.op = .dcp then s.n else w.n)
end

