-- ==== Sys2Proof/Laws/Bits.lean ====
section
/-! SUPPORT. The bit-field helpers as arithmetic (R9), and that a word is its two bytes. -/

namespace Sys2Proof.Machine

theorem lo8_toNat (w : Word) : (lo8 w).toNat = w.toNat % 256 := by simp [lo8]

theorem hi8_toNat (w : Word) : (hi8 w).toNat = w.toNat / 256 := by
  have := w.isLt
  simp [hi8, Nat.shiftRight_eq_div_pow]
  omega

theorem zext16_toNat (b : Byte) : (zext16 b).toNat = b.toNat := by
  have := b.isLt
  simp [zext16]
  omega

theorem ofHiLo_toNat (hi lo : Byte) : (ofHiLo hi lo).toNat = 256 * hi.toNat + lo.toNat := by
  have hh := hi.isLt
  have hl := lo.isLt
  have : (ofHiLo hi lo).toNat = (hi.toNat <<< 8) ||| lo.toNat := by
    have h1 : hi.toNat * 256 % 65536 = hi.toNat * 256 := by omega
    have h2 : lo.toNat % 65536 = lo.toNat := by omega
    simp [ofHiLo, Nat.shiftLeft_eq, h1, h2]
  rw [this, ← Nat.shiftLeft_add_eq_or_of_lt hl, Nat.shiftLeft_eq]
  omega

@[simp] theorem ofHiLo_hi8_lo8 (w : Word) : ofHiLo (hi8 w) (lo8 w) = w := by
  apply BitVec.eq_of_toNat_eq
  rw [ofHiLo_toNat, hi8_toNat, lo8_toNat]
  omega

@[simp] theorem lo8_ofHiLo (hi lo : Byte) : lo8 (ofHiLo hi lo) = lo := by
  apply BitVec.eq_of_toNat_eq
  have := lo.isLt
  rw [lo8_toNat, ofHiLo_toNat]
  omega

@[simp] theorem hi8_ofHiLo (hi lo : Byte) : hi8 (ofHiLo hi lo) = hi := by
  apply BitVec.eq_of_toNat_eq
  have := lo.isLt
  rw [hi8_toNat, ofHiLo_toNat]
  omega

theorem sext16_toNat (b : Byte) : (sext16 b).toNat = if b.toNat ≥ 128 then b.toNat + 65280 else b.toNat := by
  revert b; decide

end Sys2Proof.Machine
end

