-- ==== Sys2Proof/Laws/Decode.lean ====
section
/-! SUPPORT. The operand bytes of an instruction rebuild its operand (R65, R75), and the length of an instruction (R69). -/

namespace Sys2Proof
open Machine

/-- Operand byte `k` of an instruction, or 0 where it has none. -/
def byteAt (bs : List Byte) (k : Nat) : Byte := bs.getD k 0

theorem memOperand_bytes (m : Mem) : memOperand m.mode (byteAt m.bytes 0) (byteAt m.bytes 1) = m := by
  cases m <;> simp [memOperand, Mem.mode, Mem.bytes, byteAt]

theorem valueOperand_bytes (o : Value) : valueOperand o.mode (byteAt o.bytes 0) (byteAt o.bytes 1) = o := by
  rcases o with b | m
  · rfl
  · have h : m.mode ≠ .imm := by cases m <;> simp [Mem.mode]
    simp [valueOperand, Value.mode, Value.bytes, h, memOperand_bytes]

theorem shiftOperand_bytes (o : ShiftTarget) : shiftOperand o.mode (byteAt o.bytes 0) (byteAt o.bytes 1) = o := by
  rcases o with _ | m
  · rfl
  · have h : m.mode ≠ .acc := by cases m <;> simp [Mem.mode]
    simp [shiftOperand, ShiftTarget.mode, ShiftTarget.bytes, h, memOperand_bytes]

theorem jumpOperand_bytes (o : JumpTarget) : jumpOperand o.mode (byteAt o.bytes 0) (byteAt o.bytes 1) = o := by
  cases o <;> simp [jumpOperand, JumpTarget.mode, JumpTarget.bytes, byteAt]

theorem mem_bytes_length (m : Mem) : m.bytes.length + 1 = m.mode.length := by cases m <;> rfl

/-- An instruction has as many operand bytes as its mode's length leaves room for (R69). -/
theorem operandBytes_length (i : Instr) : i.operandBytes.length + 1 = i.mode.length := by
  cases i with
  | asl o => rcases o with _ | m <;> [rfl; exact mem_bytes_length m]
  | lsr o => rcases o with _ | m <;> [rfl; exact mem_bytes_length m]
  | rol o => rcases o with _ | m <;> [rfl; exact mem_bytes_length m]
  | ror o => rcases o with _ | m <;> [rfl; exact mem_bytes_length m]
  | jmp o => cases o <;> rfl
  | adc o => rcases o with _ | m <;> [rfl; exact mem_bytes_length m]
  | sbc o => rcases o with _ | m <;> [rfl; exact mem_bytes_length m]
  | and o => rcases o with _ | m <;> [rfl; exact mem_bytes_length m]
  | ora o => rcases o with _ | m <;> [rfl; exact mem_bytes_length m]
  | eor o => rcases o with _ | m <;> [rfl; exact mem_bytes_length m]
  | cmp o => rcases o with _ | m <;> [rfl; exact mem_bytes_length m]
  | cpx o => rcases o with _ | m <;> [rfl; exact mem_bytes_length m]
  | cpy o => rcases o with _ | m <;> [rfl; exact mem_bytes_length m]
  | lda o => rcases o with _ | m <;> [rfl; exact mem_bytes_length m]
  | ldx o => rcases o with _ | m <;> [rfl; exact mem_bytes_length m]
  | ldy o => rcases o with _ | m <;> [rfl; exact mem_bytes_length m]
  | dop _ o => rcases o with _ | m <;> [rfl; exact mem_bytes_length m]
  | top _ o => rcases o with _ | m <;> [rfl; exact mem_bytes_length m]
  | bit m => exact mem_bytes_length m
  | inc m => exact mem_bytes_length m
  | dec m => exact mem_bytes_length m
  | sta m => exact mem_bytes_length m
  | stx m => exact mem_bytes_length m
  | sty m => exact mem_bytes_length m
  | slo m => exact mem_bytes_length m
  | sre m => exact mem_bytes_length m
  | rla m => exact mem_bytes_length m
  | rra m => exact mem_bytes_length m
  | dcp m => exact mem_bytes_length m
  | isc m => exact mem_bytes_length m
  | lax m => exact mem_bytes_length m
  | sax m => exact mem_bytes_length m
  | _ => rfl

/-- The whole instruction is as long as its mode says (R65, R69). -/
theorem encode_length (i : Instr) : (encode i).length = i.mode.length := by
  rw [encode, List.length_cons, operandBytes_length]

end Sys2Proof
end

