-- ==== Sys2Proof/Laws/Flags.lean ====
section
/-! SUPPORT. What the ALU functions give, as arithmetic on numbers (R102, R103, R105), and the bits of the status byte
(R35, R36). -/

namespace Sys2Proof.Machine

theorem adc8_r_toNat (a v : Byte) (cin : Bool) : (adc8 a v cin).r.toNat = (a.toNat + v.toNat + cin.toNat) % 256 := by
  simp [adc8]

theorem adc8_cout (a v : Byte) (cin : Bool) : (adc8 a v cin).cout = decide (a.toNat + v.toNat + cin.toNat > 255) := rfl

/-- A byte masked with 0x80 is zero exactly when its sign bit is. -/
theorem signMask_eq_zero (p : Byte) : (p &&& 0x80 == 0) = !p.getLsbD 7 := by
  revert p; decide

theorem adc8_vout (a v : Byte) (cin : Bool) :
    (adc8 a v cin).vout = ((a.getLsbD 7 == v.getLsbD 7) && (a.getLsbD 7 != (adc8 a v cin).r.getLsbD 7)) := by
  have h : (adc8 a v cin).vout =
      (((a ^^^ v) &&& 0x80 == 0) && !((a ^^^ (adc8 a v cin).r) &&& 0x80 == 0)) := rfl
  rw [h, signMask_eq_zero, signMask_eq_zero, BitVec.getLsbD_xor, BitVec.getLsbD_xor]
  cases a.getLsbD 7 <;> cases v.getLsbD 7 <;> cases (adc8 a v cin).r.getLsbD 7 <;> rfl

theorem sbc8_r_toNat (a v : Byte) (cin : Bool) :
    ((sbc8 a v cin).r.toNat : Int) = ((a.toNat : Int) - v.toNat - (1 - cin.toNat)) % 256 := by
  simp [sbc8, BitVec.toNat_ofInt]
  omega

theorem sbc8_cout (a v : Byte) (cin : Bool) :
    (sbc8 a v cin).cout = decide ((a.toNat : Int) - v.toNat - (1 - cin.toNat) ≥ 0) := rfl

theorem sbc8_vout (a v : Byte) (cin : Bool) :
    (sbc8 a v cin).vout = ((a.getLsbD 7 != v.getLsbD 7) && (a.getLsbD 7 != (sbc8 a v cin).r.getLsbD 7)) := by
  have h : (sbc8 a v cin).vout =
      (!((a ^^^ v) &&& 0x80 == 0) && !((a ^^^ (sbc8 a v cin).r) &&& 0x80 == 0)) := rfl
  rw [h, signMask_eq_zero, signMask_eq_zero, BitVec.getLsbD_xor, BitVec.getLsbD_xor]
  cases a.getLsbD 7 <;> cases v.getLsbD 7 <;> cases (sbc8 a v cin).r.getLsbD 7 <;> rfl

/-- The shifter to the left, as a number (R105). -/
theorem shl_r_toNat (v : Byte) (fin : Bool) : (shl v fin).r.toNat = (2 * v.toNat + fin.toNat) % 256 := by
  revert v fin; decide

/-- The shifter to the right, as a number (R105). -/
theorem shr_r_toNat (v : Byte) (fin : Bool) : (shr v fin).r.toNat = v.toNat / 2 + 128 * fin.toNat := by
  revert v fin; decide

/-- The bits of an assembled status byte (R35, R36). -/
theorem statusWith_bits (bit4 : Bool) (s : State) :
    (statusWith bit4 s).getLsbD 0 = s.c ∧ (statusWith bit4 s).getLsbD 1 = s.z ∧ (statusWith bit4 s).getLsbD 2 = s.i ∧
    (statusWith bit4 s).getLsbD 3 = s.d ∧ (statusWith bit4 s).getLsbD 4 = bit4 ∧ (statusWith bit4 s).getLsbD 5 = true ∧
    (statusWith bit4 s).getLsbD 6 = s.v ∧ (statusWith bit4 s).getLsbD 7 = s.n := by
  unfold statusWith
  generalize s.n = n, s.v = v, s.d = d, s.i = i, s.z = z, s.c = c
  revert bit4 n v d i z c
  decide

end Sys2Proof.Machine
end

