-- ==== Sys2Proof/Laws/Memory.lean ====
section
/-! SUPPORT. The laws of the memory (R48): a read after a write, and that every operation keeps the canonical form. The read
laws hold of every list, canonical or not. -/

namespace Sys2Proof.Machine.Memory

@[simp] theorem read_nil (a : Nat) : Memory.read [] a = Config.unlistedByte := rfl

@[simp] theorem read_cons (k : Nat) (w : Byte) (m : Memory) (a : Nat) :
    Memory.read ((k, w) :: m) a = if k = a then w else Memory.read m a := rfl

theorem read_erase (m : Memory) (a k : Nat) :
    (erase m a).read k = if k = a then Config.unlistedByte else m.read k := by
  induction m with
  | nil => simp [erase]
  | cons p m ih =>
    obtain ⟨j, w⟩ := p
    by_cases hj : j = a
    · subst hj
      have : erase ((j, w) :: m) j = erase m j := by simp [erase]
      rw [this, ih]
      by_cases hk : k = j
      · simp [hk]
      · simp [hk, Ne.symm hk]
    · have : erase ((j, w) :: m) a = (j, w) :: erase m a := by simp [erase, hj]
      rw [this, read_cons, read_cons, ih]
      by_cases hk : j = k
      · subst hk; simp [hj]
      · simp [hk]

theorem read_insert_of_absent (m : Memory) (a k : Nat) (v : Byte) (h : ∀ p ∈ m, p.1 ≠ a) :
    (insert m a v).read k = if k = a then v else m.read k := by
  induction m with
  | nil => simp [insert, eq_comm]
  | cons p m ih =>
    obtain ⟨j, w⟩ := p
    have hj : j ≠ a := h (j, w) (by simp)
    have ih := ih fun q hq => h q (by simp [hq])
    unfold insert
    by_cases hlt : a < j
    · simp [hlt, eq_comm]
    · simp only [hlt, if_false, read_cons, ih]
      by_cases hk : j = k
      · subst hk; simp [hj]
      · simp [hk]

theorem absent_erase (m : Memory) (a : Nat) : ∀ p ∈ erase m a, p.1 ≠ a := by
  intro p hp
  simpa using (List.mem_filter.mp hp).2

/-- Reading after a write: the byte written at its address, the old byte at every other. -/
theorem read_write (m : Memory) (a k : Nat) (v : Byte) :
    (write m a v).read k = if k = a then v else m.read k := by
  unfold write
  by_cases hv : v = Config.unlistedByte
  · simp [hv, read_erase]
  · rw [if_neg hv, read_insert_of_absent _ _ _ _ (absent_erase m a), read_erase]
    by_cases hk : k = a <;> simp [hk]

@[simp] theorem read_write_same (m : Memory) (a : Nat) (v : Byte) : (write m a v).read a = v := by
  simp [read_write]

theorem read_write_other (m : Memory) (a k : Nat) (v : Byte) (h : k ≠ a) : (write m a v).read k = m.read k := by
  simp [read_write, h]

theorem wf_nil : Memory.wf [] := by simp [wf]

theorem wf_erase (m : Memory) (a : Nat) (h : m.wf) : (erase m a).wf :=
  ⟨h.1.filter _, fun p hp => h.2 p (List.mem_filter.mp hp).1⟩

theorem mem_insert (m : Memory) (a : Nat) (v : Byte) (p : Host.Cell) : p ∈ insert m a v ↔ p = (a, v) ∨ p ∈ m := by
  induction m with
  | nil => simp [insert]
  | cons q m ih =>
    obtain ⟨j, w⟩ := q
    unfold insert
    split
    · simp
    · simp only [List.mem_cons, ih]; tauto

theorem sorted_insert (m : Memory) (a : Nat) (v : Byte) (hs : m.Pairwise fun p q => p.1 < q.1)
    (h : ∀ p ∈ m, p.1 ≠ a) : (insert m a v).Pairwise fun p q => p.1 < q.1 := by
  induction m with
  | nil => simp [insert]
  | cons q m ih =>
    obtain ⟨j, w⟩ := q
    have hj : j ≠ a := h (j, w) (by simp)
    obtain ⟨hhead, htail⟩ := List.pairwise_cons.mp hs
    unfold insert
    split
    · rename_i hlt
      refine List.pairwise_cons.mpr ⟨fun p hp => ?_, hs⟩
      rcases List.mem_cons.mp hp with rfl | hp
      · exact hlt
      · exact Nat.lt_trans hlt (hhead p hp)
    · refine List.pairwise_cons.mpr ⟨fun p hp => ?_, ih htail fun q hq => h q (by simp [hq])⟩
      rcases (mem_insert m a v p).mp hp with rfl | hp
      · show j < a; omega
      · exact hhead p hp

/-- A write inside the address space keeps the canonical form. -/
theorem wf_write (m : Memory) (a : Nat) (v : Byte) (ha : a < 65536) (h : m.wf) : (write m a v).wf := by
  unfold write
  have he := wf_erase m a h
  split
  · exact he
  · rename_i hv
    refine ⟨sorted_insert _ _ _ he.1 (absent_erase m a), fun p hp => ?_⟩
    rcases (mem_insert _ _ _ _).mp hp with rfl | hp
    · exact ⟨ha, hv⟩
    · exact he.2 p hp

end Sys2Proof.Machine.Memory
end

