-- ==== Sys2Proof/Laws/State.lean ====
section
/-! SUPPORT. One lemma per field and per update of the state: what each basic update writes, and that it leaves every other
field alone. All hold by `rfl`. The updates that go through the bus are closed in `Laws/Ops.lean`. -/

namespace Sys2Proof.Machine

/-! `record` adds bus events (R46). -/

@[simp] theorem record_a (es : List BusEvent) (s : State) : (record es s).a = s.a := rfl
@[simp] theorem record_x (es : List BusEvent) (s : State) : (record es s).x = s.x := rfl
@[simp] theorem record_y (es : List BusEvent) (s : State) : (record es s).y = s.y := rfl
@[simp] theorem record_sp (es : List BusEvent) (s : State) : (record es s).sp = s.sp := rfl
@[simp] theorem record_pc (es : List BusEvent) (s : State) : (record es s).pc = s.pc := rfl
@[simp] theorem record_c (es : List BusEvent) (s : State) : (record es s).c = s.c := rfl
@[simp] theorem record_z (es : List BusEvent) (s : State) : (record es s).z = s.z := rfl
@[simp] theorem record_i (es : List BusEvent) (s : State) : (record es s).i = s.i := rfl
@[simp] theorem record_d (es : List BusEvent) (s : State) : (record es s).d = s.d := rfl
@[simp] theorem record_b (es : List BusEvent) (s : State) : (record es s).b = s.b := rfl
@[simp] theorem record_v (es : List BusEvent) (s : State) : (record es s).v = s.v := rfl
@[simp] theorem record_n (es : List BusEvent) (s : State) : (record es s).n = s.n := rfl
@[simp] theorem record_cycles (es : List BusEvent) (s : State) : (record es s).cycles = s.cycles := rfl
@[simp] theorem record_fault (es : List BusEvent) (s : State) : (record es s).fault = s.fault := rfl
@[simp] theorem record_memory (es : List BusEvent) (s : State) : (record es s).memory = s.memory := rfl
@[simp] theorem record_ioRegion (es : List BusEvent) (s : State) : (record es s).ioRegion = s.ioRegion := rfl
@[simp] theorem record_events (es : List BusEvent) (s : State) : (record es s).events = s.events ++ es := rfl

/-! `updateZN` (R100). -/

@[simp] theorem updateZN_a (r : Byte) (s : State) : (updateZN r s).a = s.a := rfl
@[simp] theorem updateZN_x (r : Byte) (s : State) : (updateZN r s).x = s.x := rfl
@[simp] theorem updateZN_y (r : Byte) (s : State) : (updateZN r s).y = s.y := rfl
@[simp] theorem updateZN_sp (r : Byte) (s : State) : (updateZN r s).sp = s.sp := rfl
@[simp] theorem updateZN_pc (r : Byte) (s : State) : (updateZN r s).pc = s.pc := rfl
@[simp] theorem updateZN_c (r : Byte) (s : State) : (updateZN r s).c = s.c := rfl
@[simp] theorem updateZN_z (r : Byte) (s : State) : (updateZN r s).z = (r == 0) := rfl
@[simp] theorem updateZN_i (r : Byte) (s : State) : (updateZN r s).i = s.i := rfl
@[simp] theorem updateZN_d (r : Byte) (s : State) : (updateZN r s).d = s.d := rfl
@[simp] theorem updateZN_b (r : Byte) (s : State) : (updateZN r s).b = s.b := rfl
@[simp] theorem updateZN_v (r : Byte) (s : State) : (updateZN r s).v = s.v := rfl
@[simp] theorem updateZN_n (r : Byte) (s : State) : (updateZN r s).n = r.getLsbD 7 := rfl
@[simp] theorem updateZN_cycles (r : Byte) (s : State) : (updateZN r s).cycles = s.cycles := rfl
@[simp] theorem updateZN_fault (r : Byte) (s : State) : (updateZN r s).fault = s.fault := rfl
@[simp] theorem updateZN_memory (r : Byte) (s : State) : (updateZN r s).memory = s.memory := rfl
@[simp] theorem updateZN_ioRegion (r : Byte) (s : State) : (updateZN r s).ioRegion = s.ioRegion := rfl
@[simp] theorem updateZN_events (r : Byte) (s : State) : (updateZN r s).events = s.events := rfl

/-! `updateAZN` (R101). -/

@[simp] theorem updateAZN_a (r : Byte) (s : State) : (updateAZN r s).a = r := rfl
@[simp] theorem updateAZN_x (r : Byte) (s : State) : (updateAZN r s).x = s.x := rfl
@[simp] theorem updateAZN_y (r : Byte) (s : State) : (updateAZN r s).y = s.y := rfl
@[simp] theorem updateAZN_sp (r : Byte) (s : State) : (updateAZN r s).sp = s.sp := rfl
@[simp] theorem updateAZN_pc (r : Byte) (s : State) : (updateAZN r s).pc = s.pc := rfl
@[simp] theorem updateAZN_c (r : Byte) (s : State) : (updateAZN r s).c = s.c := rfl
@[simp] theorem updateAZN_z (r : Byte) (s : State) : (updateAZN r s).z = (r == 0) := rfl
@[simp] theorem updateAZN_i (r : Byte) (s : State) : (updateAZN r s).i = s.i := rfl
@[simp] theorem updateAZN_d (r : Byte) (s : State) : (updateAZN r s).d = s.d := rfl
@[simp] theorem updateAZN_b (r : Byte) (s : State) : (updateAZN r s).b = s.b := rfl
@[simp] theorem updateAZN_v (r : Byte) (s : State) : (updateAZN r s).v = s.v := rfl
@[simp] theorem updateAZN_n (r : Byte) (s : State) : (updateAZN r s).n = r.getLsbD 7 := rfl
@[simp] theorem updateAZN_cycles (r : Byte) (s : State) : (updateAZN r s).cycles = s.cycles := rfl
@[simp] theorem updateAZN_fault (r : Byte) (s : State) : (updateAZN r s).fault = s.fault := rfl
@[simp] theorem updateAZN_memory (r : Byte) (s : State) : (updateAZN r s).memory = s.memory := rfl
@[simp] theorem updateAZN_ioRegion (r : Byte) (s : State) : (updateAZN r s).ioRegion = s.ioRegion := rfl
@[simp] theorem updateAZN_events (r : Byte) (s : State) : (updateAZN r s).events = s.events := rfl

/-! `compareBytes` (R106). -/

@[simp] theorem compareBytes_a (p q : Byte) (s : State) : (compareBytes p q s).a = s.a := rfl
@[simp] theorem compareBytes_x (p q : Byte) (s : State) : (compareBytes p q s).x = s.x := rfl
@[simp] theorem compareBytes_y (p q : Byte) (s : State) : (compareBytes p q s).y = s.y := rfl
@[simp] theorem compareBytes_sp (p q : Byte) (s : State) : (compareBytes p q s).sp = s.sp := rfl
@[simp] theorem compareBytes_pc (p q : Byte) (s : State) : (compareBytes p q s).pc = s.pc := rfl
@[simp] theorem compareBytes_c (p q : Byte) (s : State) : (compareBytes p q s).c = decide (p ≥ q) := rfl
@[simp] theorem compareBytes_z (p q : Byte) (s : State) : (compareBytes p q s).z = (p - q == 0) := rfl
@[simp] theorem compareBytes_i (p q : Byte) (s : State) : (compareBytes p q s).i = s.i := rfl
@[simp] theorem compareBytes_d (p q : Byte) (s : State) : (compareBytes p q s).d = s.d := rfl
@[simp] theorem compareBytes_b (p q : Byte) (s : State) : (compareBytes p q s).b = s.b := rfl
@[simp] theorem compareBytes_v (p q : Byte) (s : State) : (compareBytes p q s).v = s.v := rfl
@[simp] theorem compareBytes_n (p q : Byte) (s : State) : (compareBytes p q s).n = (p - q).getLsbD 7 := rfl
@[simp] theorem compareBytes_cycles (p q : Byte) (s : State) : (compareBytes p q s).cycles = s.cycles := rfl
@[simp] theorem compareBytes_fault (p q : Byte) (s : State) : (compareBytes p q s).fault = s.fault := rfl
@[simp] theorem compareBytes_memory (p q : Byte) (s : State) : (compareBytes p q s).memory = s.memory := rfl
@[simp] theorem compareBytes_ioRegion (p q : Byte) (s : State) : (compareBytes p q s).ioRegion = s.ioRegion := rfl
@[simp] theorem compareBytes_events (p q : Byte) (s : State) : (compareBytes p q s).events = s.events := rfl

/-! `writeStatus` (R37). -/

@[simp] theorem writeStatus_a (p : Byte) (s : State) : (writeStatus p s).a = s.a := rfl
@[simp] theorem writeStatus_x (p : Byte) (s : State) : (writeStatus p s).x = s.x := rfl
@[simp] theorem writeStatus_y (p : Byte) (s : State) : (writeStatus p s).y = s.y := rfl
@[simp] theorem writeStatus_sp (p : Byte) (s : State) : (writeStatus p s).sp = s.sp := rfl
@[simp] theorem writeStatus_pc (p : Byte) (s : State) : (writeStatus p s).pc = s.pc := rfl
@[simp] theorem writeStatus_c (p : Byte) (s : State) : (writeStatus p s).c = p.getLsbD 0 := rfl
@[simp] theorem writeStatus_z (p : Byte) (s : State) : (writeStatus p s).z = p.getLsbD 1 := rfl
@[simp] theorem writeStatus_i (p : Byte) (s : State) : (writeStatus p s).i = p.getLsbD 2 := rfl
@[simp] theorem writeStatus_d (p : Byte) (s : State) : (writeStatus p s).d = p.getLsbD 3 := rfl
@[simp] theorem writeStatus_b (p : Byte) (s : State) : (writeStatus p s).b = false := rfl
@[simp] theorem writeStatus_v (p : Byte) (s : State) : (writeStatus p s).v = p.getLsbD 6 := rfl
@[simp] theorem writeStatus_n (p : Byte) (s : State) : (writeStatus p s).n = p.getLsbD 7 := rfl
@[simp] theorem writeStatus_cycles (p : Byte) (s : State) : (writeStatus p s).cycles = s.cycles := rfl
@[simp] theorem writeStatus_fault (p : Byte) (s : State) : (writeStatus p s).fault = s.fault := rfl
@[simp] theorem writeStatus_memory (p : Byte) (s : State) : (writeStatus p s).memory = s.memory := rfl
@[simp] theorem writeStatus_ioRegion (p : Byte) (s : State) : (writeStatus p s).ioRegion = s.ioRegion := rfl
@[simp] theorem writeStatus_events (p : Byte) (s : State) : (writeStatus p s).events = s.events := rfl

/-! `memWrite` (R11, R48). -/

@[simp] theorem memWrite_a (ea : Word) (w : Byte) (s : State) : (memWrite ea w s).a = s.a := rfl
@[simp] theorem memWrite_x (ea : Word) (w : Byte) (s : State) : (memWrite ea w s).x = s.x := rfl
@[simp] theorem memWrite_y (ea : Word) (w : Byte) (s : State) : (memWrite ea w s).y = s.y := rfl
@[simp] theorem memWrite_sp (ea : Word) (w : Byte) (s : State) : (memWrite ea w s).sp = s.sp := rfl
@[simp] theorem memWrite_pc (ea : Word) (w : Byte) (s : State) : (memWrite ea w s).pc = s.pc := rfl
@[simp] theorem memWrite_c (ea : Word) (w : Byte) (s : State) : (memWrite ea w s).c = s.c := rfl
@[simp] theorem memWrite_z (ea : Word) (w : Byte) (s : State) : (memWrite ea w s).z = s.z := rfl
@[simp] theorem memWrite_i (ea : Word) (w : Byte) (s : State) : (memWrite ea w s).i = s.i := rfl
@[simp] theorem memWrite_d (ea : Word) (w : Byte) (s : State) : (memWrite ea w s).d = s.d := rfl
@[simp] theorem memWrite_b (ea : Word) (w : Byte) (s : State) : (memWrite ea w s).b = s.b := rfl
@[simp] theorem memWrite_v (ea : Word) (w : Byte) (s : State) : (memWrite ea w s).v = s.v := rfl
@[simp] theorem memWrite_n (ea : Word) (w : Byte) (s : State) : (memWrite ea w s).n = s.n := rfl
@[simp] theorem memWrite_cycles (ea : Word) (w : Byte) (s : State) : (memWrite ea w s).cycles = s.cycles := rfl
@[simp] theorem memWrite_fault (ea : Word) (w : Byte) (s : State) : (memWrite ea w s).fault = s.fault := rfl
@[simp] theorem memWrite_memory (ea : Word) (w : Byte) (s : State) : (memWrite ea w s).memory = (if isIo s.ioRegion ea then s.memory else s.memory.write ea.toNat w) := rfl
@[simp] theorem memWrite_ioRegion (ea : Word) (w : Byte) (s : State) : (memWrite ea w s).ioRegion = s.ioRegion := rfl
@[simp] theorem memWrite_events (ea : Word) (w : Byte) (s : State) : (memWrite ea w s).events = s.events ++ [.write ea w] := rfl

/-! `push` (R55). -/

@[simp] theorem push_a (w : Byte) (s : State) : (push w s).a = s.a := rfl
@[simp] theorem push_x (w : Byte) (s : State) : (push w s).x = s.x := rfl
@[simp] theorem push_y (w : Byte) (s : State) : (push w s).y = s.y := rfl
@[simp] theorem push_sp (w : Byte) (s : State) : (push w s).sp = s.sp - 1 := rfl
@[simp] theorem push_pc (w : Byte) (s : State) : (push w s).pc = s.pc := rfl
@[simp] theorem push_c (w : Byte) (s : State) : (push w s).c = s.c := rfl
@[simp] theorem push_z (w : Byte) (s : State) : (push w s).z = s.z := rfl
@[simp] theorem push_i (w : Byte) (s : State) : (push w s).i = s.i := rfl
@[simp] theorem push_d (w : Byte) (s : State) : (push w s).d = s.d := rfl
@[simp] theorem push_b (w : Byte) (s : State) : (push w s).b = s.b := rfl
@[simp] theorem push_v (w : Byte) (s : State) : (push w s).v = s.v := rfl
@[simp] theorem push_n (w : Byte) (s : State) : (push w s).n = s.n := rfl
@[simp] theorem push_cycles (w : Byte) (s : State) : (push w s).cycles = s.cycles := rfl
@[simp] theorem push_fault (w : Byte) (s : State) : (push w s).fault = s.fault := rfl
@[simp] theorem push_memory (w : Byte) (s : State) : (push w s).memory = (if isIo s.ioRegion (stackAddr s.sp) then s.memory else s.memory.write (stackAddr s.sp).toNat w) := rfl
@[simp] theorem push_ioRegion (w : Byte) (s : State) : (push w s).ioRegion = s.ioRegion := rfl
@[simp] theorem push_events (w : Byte) (s : State) : (push w s).events = s.events ++ [.write (stackAddr s.sp) w] := rfl

/-! `memRead` (R11): the value, and the state with the event recorded. -/

@[simp] theorem memRead_fst (a : Word) (s : State) : (memRead a s).1 = busValue a s := rfl
@[simp] theorem memRead_snd (a : Word) (s : State) : (memRead a s).2 = record [.read a (busValue a s)] s := rfl

@[simp] theorem record_record (p q : List BusEvent) (s : State) : record q (record p s) = record (p ++ q) s := by
  simp [record, List.append_assoc]

@[simp] theorem record_nil (s : State) : record [] s = s := by simp [record]

end Sys2Proof.Machine
end

