-- ==== Sys2Proof/Laws/Ops.lean ====
section
/-! SUPPORT. What each shared operation does, said once: the bus, the stack, the trap and its return. -/

namespace Sys2Proof.Machine

/-- Outside the I/O region a read gives the memory byte (R48). -/
theorem busValue_ram (a : Word) (s : State) (h : isIo s.ioRegion a = false) : busValue a s = s.memory.read a.toNat := by
  simp [busValue, h]

/-- Inside it, a draw (R47, R48). -/
theorem busValue_io (a : Word) (s : State) (h : isIo s.ioRegion a = true) : busValue a s = Config.ioByte s.events a := by
  simp [busValue, h]

/-- A read depends on nothing but the memory, the I/O region and the history. -/
theorem busValue_congr (a : Word) {s t : State} (hm : s.memory = t.memory) (hr : s.ioRegion = t.ioRegion)
    (he : s.events = t.events) : busValue a s = busValue a t := by
  simp [busValue, hm, hr, he]

/-- A write, read back through memory: the byte written at its address outside the I/O region, the old byte elsewhere. -/
theorem memWrite_read (ea : Word) (w : Byte) (s : State) (k : Nat) :
    (memWrite ea w s).memory.read k =
      if isIo s.ioRegion ea = false ∧ k = ea.toNat then w else s.memory.read k := by
  by_cases h : isIo s.ioRegion ea = true
  · simp [h]
  · simp [h, Memory.read_write]

theorem memWrite_wf (ea : Word) (w : Byte) (s : State) (h : s.memory.wf) : (memWrite ea w s).memory.wf := by
  simp only [memWrite_memory]
  split
  · exact h
  · exact Memory.wf_write _ _ _ (by have := ea.isLt; omega) h

/-- Two byte reads (R50): the value is the two bytes, low byte first; two read events are added and nothing else changes. -/
theorem readPair_eq (lo hi : Word) (s : State) :
    readPair lo hi s =
      (ofHiLo (busValue hi (record [.read lo (busValue lo s)] s)) (busValue lo s),
       record [.read lo (busValue lo s), .read hi (busValue hi (record [.read lo (busValue lo s)] s))] s) := by
  simp [readPair]

theorem stackAddr_toNat (sp : Byte) : (stackAddr sp).toNat = 256 + sp.toNat := by
  revert sp; decide

/-- The stack addresses of two stack pointers differ when the pointers do. -/
theorem stackAddr_inj (p q : Byte) : stackAddr p = stackAddr q ↔ p = q := by
  constructor
  · intro h
    have := congrArg BitVec.toNat h
    rw [stackAddr_toNat, stackAddr_toNat] at this
    exact BitVec.eq_of_toNat_eq (by omega)
  · rintro rfl; rfl

/-- `pop` (R56): SP is incremented and the byte at the new stack address is read. -/
theorem pop_eq (s : State) :
    pop s = (busValue (stackAddr (s.sp + 1)) s,
      { s with sp := s.sp + 1,
               events := s.events ++ [.read (stackAddr (s.sp + 1)) (busValue (stackAddr (s.sp + 1)) s)] }) := rfl

theorem sub_one_one (p : Byte) : p - 1 - 1 = p - 2 := by revert p; decide
theorem sub_two_one (p : Byte) : p - 2 - 1 = p - 3 := by revert p; decide
theorem add_one_one (p : Byte) : p + 1 + 1 = p + 2 := by revert p; decide
theorem add_two_one (p : Byte) : p + 2 + 1 = p + 3 := by revert p; decide

/-- `push16` (R57): SP goes down by two; the high byte is written at the higher address. -/
@[simp] theorem push16_sp (w : Word) (s : State) : (push16 w s).sp = s.sp - 2 := by
  simp [push16, BitVec.sub_sub]

@[simp] theorem push16_events (w : Word) (s : State) :
    (push16 w s).events = s.events ++ [.write (stackAddr s.sp) (hi8 w), .write (stackAddr (s.sp - 1)) (lo8 w)] := by
  simp [push16]

theorem push_read (w : Byte) (s : State) (k : Nat) :
    (push w s).memory.read k =
      if isIo s.ioRegion (stackAddr s.sp) = false ∧ k = (stackAddr s.sp).toNat then w else s.memory.read k :=
  memWrite_read (stackAddr s.sp) w s k

/-- `push16` (R57), read back through memory. -/
theorem push16_read (w : Word) (s : State) (k : Nat) :
    (push16 w s).memory.read k =
      if isIo s.ioRegion (stackAddr (s.sp - 1)) = false ∧ k = (stackAddr (s.sp - 1)).toNat then lo8 w
      else if isIo s.ioRegion (stackAddr s.sp) = false ∧ k = (stackAddr s.sp).toNat then hi8 w
      else s.memory.read k := by
  simp only [push16, push_read, push_ioRegion, push_sp]

@[simp] theorem push16_a (w : Word) (s : State) : (push16 w s).a = s.a := by simp [push16]
@[simp] theorem push16_x (w : Word) (s : State) : (push16 w s).x = s.x := by simp [push16]
@[simp] theorem push16_y (w : Word) (s : State) : (push16 w s).y = s.y := by simp [push16]
@[simp] theorem push16_pc (w : Word) (s : State) : (push16 w s).pc = s.pc := by simp [push16]
@[simp] theorem push16_c (w : Word) (s : State) : (push16 w s).c = s.c := by simp [push16]
@[simp] theorem push16_z (w : Word) (s : State) : (push16 w s).z = s.z := by simp [push16]
@[simp] theorem push16_i (w : Word) (s : State) : (push16 w s).i = s.i := by simp [push16]
@[simp] theorem push16_d (w : Word) (s : State) : (push16 w s).d = s.d := by simp [push16]
@[simp] theorem push16_b (w : Word) (s : State) : (push16 w s).b = s.b := by simp [push16]
@[simp] theorem push16_v (w : Word) (s : State) : (push16 w s).v = s.v := by simp [push16]
@[simp] theorem push16_n (w : Word) (s : State) : (push16 w s).n = s.n := by simp [push16]
@[simp] theorem push16_cycles (w : Word) (s : State) : (push16 w s).cycles = s.cycles := by simp [push16]
@[simp] theorem push16_fault (w : Word) (s : State) : (push16 w s).fault = s.fault := by simp [push16]
@[simp] theorem push16_ioRegion (w : Word) (s : State) : (push16 w s).ioRegion = s.ioRegion := by simp [push16]

theorem push_wf (w : Byte) (s : State) (h : s.memory.wf) : (push w s).memory.wf :=
  memWrite_wf (stackAddr s.sp) w s h

/-- `pop16` (R58): the low byte is read first, from the lower address; SP goes up by two. -/
theorem pop16_eq (s : State) :
    pop16 s =
      (ofHiLo (busValue (stackAddr (s.sp + 2)) (record [.read (stackAddr (s.sp + 1)) (busValue (stackAddr (s.sp + 1)) s)] s))
        (busValue (stackAddr (s.sp + 1)) s),
       { s with
          sp := s.sp + 2
          events := s.events ++
            [.read (stackAddr (s.sp + 1)) (busValue (stackAddr (s.sp + 1)) s),
             .read (stackAddr (s.sp + 2))
              (busValue (stackAddr (s.sp + 2))
                (record [.read (stackAddr (s.sp + 1)) (busValue (stackAddr (s.sp + 1)) s)] s))] }) := by
  simp only [pop16, pop_eq, add_one_one]
  simp [busValue]

/-- Taking the trap leaves these alone (R201). -/
theorem takeBreak_frame (s : State) :
    (takeBreak s).a = s.a ∧ (takeBreak s).x = s.x ∧ (takeBreak s).y = s.y ∧ (takeBreak s).c = s.c ∧
    (takeBreak s).z = s.z ∧ (takeBreak s).d = s.d ∧ (takeBreak s).v = s.v ∧ (takeBreak s).n = s.n ∧
    (takeBreak s).cycles = s.cycles ∧ (takeBreak s).fault = s.fault ∧ (takeBreak s).ioRegion = s.ioRegion := by
  simp [takeBreak, read16, readPair_eq, push16]

/-- Taking the trap writes SP, B and I (R201). -/
theorem takeBreak_written (s : State) :
    (takeBreak s).sp = s.sp - 3 ∧ (takeBreak s).b = true ∧ (takeBreak s).i = (s.i || Config.brkSetsI) := by
  simp [takeBreak, read16, readPair_eq, push16, BitVec.sub_sub]

/-- The bus events of the trap: three stack writes, then the two reads of the vector (R147). -/
theorem takeBreak_events (s : State) :
    (takeBreak s).events = s.events ++
      [.write (stackAddr s.sp) (hi8 s.pc), .write (stackAddr (s.sp - 1)) (lo8 s.pc),
       .write (stackAddr (s.sp - 2)) (pushedStatus s)] ++
      [.read Config.irqBrkVector (busValue Config.irqBrkVector (push (pushedStatus s) (push16 s.pc s))),
       .read (Config.irqBrkVector + 1) (busValue (Config.irqBrkVector + 1)
        (record [.read Config.irqBrkVector (busValue Config.irqBrkVector (push (pushedStatus s) (push16 s.pc s)))]
          (push (pushedStatus s) (push16 s.pc s))))] := by
  simp [takeBreak, read16, readPair_eq, busValue]

theorem takeBreak_memory (s : State) : (takeBreak s).memory = (push (pushedStatus s) (push16 s.pc s)).memory := by
  simp [takeBreak, read16, readPair_eq]

theorem takeBreak_wf (s : State) (h : s.memory.wf) : (takeBreak s).memory.wf := by
  rw [takeBreak_memory]
  exact push_wf _ _ (push_wf _ _ (push_wf _ _ h))

end Sys2Proof.Machine
end

