-- ==== Sys2Proof/Laws/Operands.lean ====
section
/-! SUPPORT. What resolving an operand does (R71, R73): it adds read events and changes nothing else. -/

namespace Sys2Proof.Machine

/-- The pointer reads of a memory operand (R87, R88). -/
def pointerEvents (m : Mem) (s : State) : List BusEvent :=
  match m with
  | .izx b =>
    let lo := zext16 (b + s.x)
    let hi := zext16 (b + s.x + 1)
    [.read lo (busValue lo s), .read hi (busValue hi (record [.read lo (busValue lo s)] s))]
  | .izy b =>
    let lo := zext16 b
    let hi := zext16 (b + 1)
    [.read lo (busValue lo s), .read hi (busValue hi (record [.read lo (busValue lo s)] s))]
  | _ => []

/-- Resolving an effective address only adds the mode's pointer reads. -/
theorem effAddr_snd (m : Mem) (s : State) : (effAddr m s).2 = record (pointerEvents m s) s := by
  cases m <;> simp [effAddr, pointerEvents, readPair_eq]

/-- The reads of a VALUE operand (R73): the pointer reads, then the one read of the address. -/
def valueEvents (o : Value) (s : State) : List BusEvent :=
  match o with
  | .imm _ => []
  | .mem m => pointerEvents m s ++ [.read (effAddr m s).1 (busValue (effAddr m s).1 (effAddr m s).2)]

/-- Resolving a VALUE operand only adds its reads. -/
theorem resolveValue_snd (o : Value) (s : State) : (resolveValue o s).2 = record (valueEvents o s) s := by
  cases o <;> simp [resolveValue, valueEvents, effAddr_snd]

/-- The address of the high byte of a JMP pointer stays in the page of the low byte (R86). -/
theorem pointerHigh_toNat (w : Word) :
    ((w &&& 0xFF00) ||| zext16 (lo8 (w + 1))).toNat = 256 * (w.toNat / 256) + (w.toNat + 1) % 256 := by
  have hmask : ∀ k, k < 16 → (0xFF00#16).getLsbD k = decide (8 ≤ k) := by decide
  have h : (w &&& 0xFF00) ||| zext16 (lo8 (w + 1)) = ofHiLo (hi8 w) (lo8 (w + 1)) := by
    apply BitVec.eq_of_getLsbD_eq
    intro k hk
    simp only [ofHiLo, hi8, zext16, BitVec.getLsbD_or, BitVec.getLsbD_and, BitVec.getLsbD_setWidth,
      BitVec.getLsbD_shiftLeft, BitVec.getLsbD_ushiftRight]
    rw [show ((0xFF00 : Word).getLsbD k) = decide (8 ≤ k) from hmask k hk]
    by_cases h8 : k < 8
    · simp [h8, Nat.not_le.mpr h8]
    · have h2 : 8 + (k - 8) = k := by omega
      have h3 : k - 8 < 8 := by omega
      have h4 : k - 8 < 16 := by omega
      simp [h8, hk, h2, h3, h4, Nat.le_of_not_lt h8]
  rw [h, ofHiLo_toNat, hi8_toNat, lo8_toNat, BitVec.toNat_add]
  simp

/-- The reads of a JMP operand (R86). -/
def jumpEvents (o : JumpTarget) (s : State) : List BusEvent :=
  match o with
  | .abs _ => []
  | .ind w =>
    let hi := (w &&& 0xFF00) ||| zext16 (lo8 (w + 1))
    [.read w (busValue w s), .read hi (busValue hi (record [.read w (busValue w s)] s))]

/-- Resolving a JMP operand only adds its pointer reads. -/
theorem jumpTarget_snd (o : JumpTarget) (s : State) : (jumpTarget o s).2 = record (jumpEvents o s) s := by
  cases o <;> simp [jumpTarget, jumpEvents, readPair_eq]

end Sys2Proof.Machine
end

