-- ==== Sys2Proof/Laws/PerInstr.lean ====
section
/-! SUPPORT. Two facts about every instruction as syntax, one lemma for each constructor. `RomAgrees`: the encoder, written
from the instruction rules, and the dispatch ROM, written from the map of R89, give the same opcode byte its operation and
mode. `Reassembles`: the operand bytes rebuild the instruction. -/

namespace Sys2Proof.Laws.RomAgrees
open Sys2Proof

/-- The ROM entry at the instruction's opcode byte is the instruction's operation and mode. -/
def Statement (i : Instr) : Prop := wellFormed i = true → dispatch (opcodeOf i) = ⟨i.op, i.mode⟩

theorem dop_rom (m : Mode) : ∀ opcode, (dopBytes m).contains opcode = true → dispatch opcode = ⟨.dop, m⟩ := by
  cases m <;> decide

theorem top_rom (m : Mode) : ∀ opcode, (topBytes m).contains opcode = true → dispatch opcode = ⟨.top, m⟩ := by
  cases m <;> decide

theorem nop_rom : ∀ opcode, nopBytes.contains opcode = true → dispatch opcode = ⟨.nopU, .imp⟩ := by decide

theorem unassigned_rom : ∀ opcode, unassignedBytes.contains opcode = true → dispatch opcode = ⟨.unassigned, .imp⟩ := by
  decide

theorem adc (o : Value) : Statement (.adc o) := fun h => by
  rcases o with _ | m
  · rfl
  · cases m <;> first | rfl | exact absurd h Bool.false_ne_true
theorem sbc (o : Value) : Statement (.sbc o) := fun h => by
  rcases o with _ | m
  · rfl
  · cases m <;> first | rfl | exact absurd h Bool.false_ne_true
theorem and (o : Value) : Statement (.and o) := fun h => by
  rcases o with _ | m
  · rfl
  · cases m <;> first | rfl | exact absurd h Bool.false_ne_true
theorem ora (o : Value) : Statement (.ora o) := fun h => by
  rcases o with _ | m
  · rfl
  · cases m <;> first | rfl | exact absurd h Bool.false_ne_true
theorem eor (o : Value) : Statement (.eor o) := fun h => by
  rcases o with _ | m
  · rfl
  · cases m <;> first | rfl | exact absurd h Bool.false_ne_true
theorem asl (o : ShiftTarget) : Statement (.asl o) := fun h => by
  rcases o with _ | m
  · rfl
  · cases m <;> first | rfl | exact absurd h Bool.false_ne_true
theorem lsr (o : ShiftTarget) : Statement (.lsr o) := fun h => by
  rcases o with _ | m
  · rfl
  · cases m <;> first | rfl | exact absurd h Bool.false_ne_true
theorem rol (o : ShiftTarget) : Statement (.rol o) := fun h => by
  rcases o with _ | m
  · rfl
  · cases m <;> first | rfl | exact absurd h Bool.false_ne_true
theorem ror (o : ShiftTarget) : Statement (.ror o) := fun h => by
  rcases o with _ | m
  · rfl
  · cases m <;> first | rfl | exact absurd h Bool.false_ne_true
theorem cmp (o : Value) : Statement (.cmp o) := fun h => by
  rcases o with _ | m
  · rfl
  · cases m <;> first | rfl | exact absurd h Bool.false_ne_true
theorem cpx (o : Value) : Statement (.cpx o) := fun h => by
  rcases o with _ | m
  · rfl
  · cases m <;> first | rfl | exact absurd h Bool.false_ne_true
theorem cpy (o : Value) : Statement (.cpy o) := fun h => by
  rcases o with _ | m
  · rfl
  · cases m <;> first | rfl | exact absurd h Bool.false_ne_true
theorem bit (m : Mem) : Statement (.bit m) := fun h => by cases m <;> first | rfl | exact absurd h Bool.false_ne_true
theorem inc (m : Mem) : Statement (.inc m) := fun h => by cases m <;> first | rfl | exact absurd h Bool.false_ne_true
theorem dec (m : Mem) : Statement (.dec m) := fun h => by cases m <;> first | rfl | exact absurd h Bool.false_ne_true
theorem inx : Statement .inx := fun _ => rfl
theorem iny : Statement .iny := fun _ => rfl
theorem dex : Statement .dex := fun _ => rfl
theorem dey : Statement .dey := fun _ => rfl
theorem bcc (offset : Byte) : Statement (.bcc offset) := fun _ => rfl
theorem bcs (offset : Byte) : Statement (.bcs offset) := fun _ => rfl
theorem beq (offset : Byte) : Statement (.beq offset) := fun _ => rfl
theorem bne (offset : Byte) : Statement (.bne offset) := fun _ => rfl
theorem bmi (offset : Byte) : Statement (.bmi offset) := fun _ => rfl
theorem bpl (offset : Byte) : Statement (.bpl offset) := fun _ => rfl
theorem bvc (offset : Byte) : Statement (.bvc offset) := fun _ => rfl
theorem bvs (offset : Byte) : Statement (.bvs offset) := fun _ => rfl
theorem jmp (target : JumpTarget) : Statement (.jmp target) := fun _ => by cases target <;> rfl
theorem jsr (target : Word) : Statement (.jsr target) := fun _ => rfl
theorem rts : Statement .rts := fun _ => rfl
theorem brk : Statement .brk := fun _ => rfl
theorem rti : Statement .rti := fun _ => rfl
theorem pha : Statement .pha := fun _ => rfl
theorem php : Statement .php := fun _ => rfl
theorem pla : Statement .pla := fun _ => rfl
theorem plp : Statement .plp := fun _ => rfl
theorem clc : Statement .clc := fun _ => rfl
theorem cld : Statement .cld := fun _ => rfl
theorem cli : Statement .cli := fun _ => rfl
theorem clv : Statement .clv := fun _ => rfl
theorem sec : Statement .sec := fun _ => rfl
theorem sed : Statement .sed := fun _ => rfl
theorem sei : Statement .sei := fun _ => rfl
theorem tax : Statement .tax := fun _ => rfl
theorem tay : Statement .tay := fun _ => rfl
theorem tsx : Statement .tsx := fun _ => rfl
theorem txa : Statement .txa := fun _ => rfl
theorem txs : Statement .txs := fun _ => rfl
theorem tya : Statement .tya := fun _ => rfl
theorem lda (o : Value) : Statement (.lda o) := fun h => by
  rcases o with _ | m
  · rfl
  · cases m <;> first | rfl | exact absurd h Bool.false_ne_true
theorem ldx (o : Value) : Statement (.ldx o) := fun h => by
  rcases o with _ | m
  · rfl
  · cases m <;> first | rfl | exact absurd h Bool.false_ne_true
theorem ldy (o : Value) : Statement (.ldy o) := fun h => by
  rcases o with _ | m
  · rfl
  · cases m <;> first | rfl | exact absurd h Bool.false_ne_true
theorem sta (m : Mem) : Statement (.sta m) := fun h => by cases m <;> first | rfl | exact absurd h Bool.false_ne_true
theorem stx (m : Mem) : Statement (.stx m) := fun h => by cases m <;> first | rfl | exact absurd h Bool.false_ne_true
theorem sty (m : Mem) : Statement (.sty m) := fun h => by cases m <;> first | rfl | exact absurd h Bool.false_ne_true
theorem nop : Statement .nop := fun _ => rfl
theorem slo (m : Mem) : Statement (.slo m) := fun h => by cases m <;> first | rfl | exact absurd h Bool.false_ne_true
theorem sre (m : Mem) : Statement (.sre m) := fun h => by cases m <;> first | rfl | exact absurd h Bool.false_ne_true
theorem rla (m : Mem) : Statement (.rla m) := fun h => by cases m <;> first | rfl | exact absurd h Bool.false_ne_true
theorem rra (m : Mem) : Statement (.rra m) := fun h => by cases m <;> first | rfl | exact absurd h Bool.false_ne_true
theorem dcp (m : Mem) : Statement (.dcp m) := fun h => by cases m <;> first | rfl | exact absurd h Bool.false_ne_true
theorem isc (m : Mem) : Statement (.isc m) := fun h => by cases m <;> first | rfl | exact absurd h Bool.false_ne_true
theorem lax (m : Mem) : Statement (.lax m) := fun h => by cases m <;> first | rfl | exact absurd h Bool.false_ne_true
theorem sax (m : Mem) : Statement (.sax m) := fun h => by cases m <;> first | rfl | exact absurd h Bool.false_ne_true
theorem dop (opcode : Byte) (o : Value) : Statement (.dop opcode o) := fun h => dop_rom o.mode opcode h
theorem top (opcode : Byte) (o : Value) : Statement (.top opcode o) := fun h => top_rom o.mode opcode h
theorem nopU (opcode : Byte) : Statement (.nopU opcode) := fun h => nop_rom opcode h
theorem sbcU (b : Byte) : Statement (.sbcU b) := fun _ => rfl
theorem unassigned (opcode : Byte) : Statement (.unassigned opcode) := fun h => unassigned_rom opcode h

end Sys2Proof.Laws.RomAgrees

namespace Sys2Proof.Laws.Reassembles
open Sys2Proof Sys2Proof.Machine

/-- The instruction is what its opcode byte, operation, mode and operand bytes assemble to. -/
def Statement (i : Instr) : Prop :=
  wellFormed i = true →
    assemble (opcodeOf i) i.op i.mode (byteAt i.operandBytes 0) (byteAt i.operandBytes 1) = i

theorem adc (o : Value) : Statement (.adc o) := fun _ => congrArg Instr.adc (valueOperand_bytes o)
theorem sbc (o : Value) : Statement (.sbc o) := fun _ => congrArg Instr.sbc (valueOperand_bytes o)
theorem and (o : Value) : Statement (.and o) := fun _ => congrArg Instr.and (valueOperand_bytes o)
theorem ora (o : Value) : Statement (.ora o) := fun _ => congrArg Instr.ora (valueOperand_bytes o)
theorem eor (o : Value) : Statement (.eor o) := fun _ => congrArg Instr.eor (valueOperand_bytes o)
theorem asl (o : ShiftTarget) : Statement (.asl o) := fun _ => congrArg Instr.asl (shiftOperand_bytes o)
theorem lsr (o : ShiftTarget) : Statement (.lsr o) := fun _ => congrArg Instr.lsr (shiftOperand_bytes o)
theorem rol (o : ShiftTarget) : Statement (.rol o) := fun _ => congrArg Instr.rol (shiftOperand_bytes o)
theorem ror (o : ShiftTarget) : Statement (.ror o) := fun _ => congrArg Instr.ror (shiftOperand_bytes o)
theorem cmp (o : Value) : Statement (.cmp o) := fun _ => congrArg Instr.cmp (valueOperand_bytes o)
theorem cpx (o : Value) : Statement (.cpx o) := fun _ => congrArg Instr.cpx (valueOperand_bytes o)
theorem cpy (o : Value) : Statement (.cpy o) := fun _ => congrArg Instr.cpy (valueOperand_bytes o)
theorem bit (m : Mem) : Statement (.bit m) := fun _ => congrArg Instr.bit (memOperand_bytes m)
theorem inc (m : Mem) : Statement (.inc m) := fun _ => congrArg Instr.inc (memOperand_bytes m)
theorem dec (m : Mem) : Statement (.dec m) := fun _ => congrArg Instr.dec (memOperand_bytes m)
theorem inx : Statement .inx := fun _ => rfl
theorem iny : Statement .iny := fun _ => rfl
theorem dex : Statement .dex := fun _ => rfl
theorem dey : Statement .dey := fun _ => rfl
theorem bcc (offset : Byte) : Statement (.bcc offset) := fun _ => rfl
theorem bcs (offset : Byte) : Statement (.bcs offset) := fun _ => rfl
theorem beq (offset : Byte) : Statement (.beq offset) := fun _ => rfl
theorem bne (offset : Byte) : Statement (.bne offset) := fun _ => rfl
theorem bmi (offset : Byte) : Statement (.bmi offset) := fun _ => rfl
theorem bpl (offset : Byte) : Statement (.bpl offset) := fun _ => rfl
theorem bvc (offset : Byte) : Statement (.bvc offset) := fun _ => rfl
theorem bvs (offset : Byte) : Statement (.bvs offset) := fun _ => rfl
theorem jmp (target : JumpTarget) : Statement (.jmp target) := fun _ => congrArg Instr.jmp (jumpOperand_bytes target)
theorem jsr (target : Word) : Statement (.jsr target) := fun _ => congrArg Instr.jsr (ofHiLo_hi8_lo8 target)
theorem rts : Statement .rts := fun _ => rfl
theorem brk : Statement .brk := fun _ => rfl
theorem rti : Statement .rti := fun _ => rfl
theorem pha : Statement .pha := fun _ => rfl
theorem php : Statement .php := fun _ => rfl
theorem pla : Statement .pla := fun _ => rfl
theorem plp : Statement .plp := fun _ => rfl
theorem clc : Statement .clc := fun _ => rfl
theorem cld : Statement .cld := fun _ => rfl
theorem cli : Statement .cli := fun _ => rfl
theorem clv : Statement .clv := fun _ => rfl
theorem sec : Statement .sec := fun _ => rfl
theorem sed : Statement .sed := fun _ => rfl
theorem sei : Statement .sei := fun _ => rfl
theorem tax : Statement .tax := fun _ => rfl
theorem tay : Statement .tay := fun _ => rfl
theorem tsx : Statement .tsx := fun _ => rfl
theorem txa : Statement .txa := fun _ => rfl
theorem txs : Statement .txs := fun _ => rfl
theorem tya : Statement .tya := fun _ => rfl
theorem lda (o : Value) : Statement (.lda o) := fun _ => congrArg Instr.lda (valueOperand_bytes o)
theorem ldx (o : Value) : Statement (.ldx o) := fun _ => congrArg Instr.ldx (valueOperand_bytes o)
theorem ldy (o : Value) : Statement (.ldy o) := fun _ => congrArg Instr.ldy (valueOperand_bytes o)
theorem sta (m : Mem) : Statement (.sta m) := fun _ => congrArg Instr.sta (memOperand_bytes m)
theorem stx (m : Mem) : Statement (.stx m) := fun _ => congrArg Instr.stx (memOperand_bytes m)
theorem sty (m : Mem) : Statement (.sty m) := fun _ => congrArg Instr.sty (memOperand_bytes m)
theorem nop : Statement .nop := fun _ => rfl
theorem slo (m : Mem) : Statement (.slo m) := fun _ => congrArg Instr.slo (memOperand_bytes m)
theorem sre (m : Mem) : Statement (.sre m) := fun _ => congrArg Instr.sre (memOperand_bytes m)
theorem rla (m : Mem) : Statement (.rla m) := fun _ => congrArg Instr.rla (memOperand_bytes m)
theorem rra (m : Mem) : Statement (.rra m) := fun _ => congrArg Instr.rra (memOperand_bytes m)
theorem dcp (m : Mem) : Statement (.dcp m) := fun _ => congrArg Instr.dcp (memOperand_bytes m)
theorem isc (m : Mem) : Statement (.isc m) := fun _ => congrArg Instr.isc (memOperand_bytes m)
theorem lax (m : Mem) : Statement (.lax m) := fun _ => congrArg Instr.lax (memOperand_bytes m)
theorem sax (m : Mem) : Statement (.sax m) := fun _ => congrArg Instr.sax (memOperand_bytes m)
theorem dop (opcode : Byte) (o : Value) : Statement (.dop opcode o) := fun _ => congrArg (Instr.dop opcode) (valueOperand_bytes o)
theorem top (opcode : Byte) (o : Value) : Statement (.top opcode o) := fun _ => congrArg (Instr.top opcode) (valueOperand_bytes o)
theorem nopU (opcode : Byte) : Statement (.nopU opcode) := fun _ => rfl
theorem sbcU (b : Byte) : Statement (.sbcU b) := fun _ => rfl
theorem unassigned (opcode : Byte) : Statement (.unassigned opcode) := fun _ => rfl

end Sys2Proof.Laws.Reassembles
end

