-- ==== Sys2Proof/Laws/Reset.lean ====
section
/-! SUPPORT. The reset state is what R220 says: the reset operation on a constructed block over empty memory. -/

namespace Sys2Proof.Machine

theorem reset_eq_hostReset_powerOn : State.reset = hostReset (powerOn [] []) := by decide

theorem reset_memory_wf : State.reset.memory.wf := Memory.wf_nil

end Sys2Proof.Machine
end

