-- ==== Sys2Proof/Laws/Step.lean ====
section
/-! SUPPORT. The step, said once: a faulted block does not step, and an unfaulted one executes the fetched instruction in
the state after the fetch (R70, R214). -/

namespace Sys2Proof.Machine

theorem step_of_fault {s : State} {r : Fault} (h : s.fault = some r) : step s = .fault r := by
  simp [step, h]

theorem step_of_no_fault {s : State} (h : s.fault = none) : step s = exec (fetch s).1 (fetch s).2 := by
  simp [step, h]

/-- A step that answers a next state is the meaning of the fetched instruction. -/
theorem step_next {s t : State} (h : step s = .next t) : s.fault = none ∧ exec (fetch s).1 (fetch s).2 = .next t := by
  cases hf : s.fault with
  | none => exact ⟨rfl, by rw [← step_of_no_fault hf, h]⟩
  | some r => rw [step_of_fault hf] at h; cases h

/-- The fetch only adds its read events and moves PC (R70). -/
theorem fetch_snd (s : State) :
    ∃ es pc, (fetch s).2 = { record es s with pc := pc } := by
  unfold fetch fetchBytes fetchOpcode
  simp only [memRead_fst, memRead_snd]
  split <;> exact ⟨_, _, by simp only [record_record]; rfl⟩

end Sys2Proof.Machine
end

