-- ==== Sys2Proof/Laws/Unset.lean ====
section
/-! SUPPORT. Blocks with unset cells: which read is the first of an unset cell, and what the spec's step does with it. -/

namespace Sys2Proof.Machine

@[simp] theorem readsAt_cells (cells set : List RegCell) (s : State) : (readsAt cells set s).map CellRead.cell = cells := by
  simp [readsAt, Function.comp_def]

/-- Every read of `readsAt` takes place in the one state. -/
theorem mem_readsAt {p : CellRead} {cells set : List RegCell} {s : State} :
    p ∈ readsAt cells set s ↔ p.cell ∈ cells ∧ p.set = set ∧ p.state = s := by
  simp only [readsAt, List.mem_map]
  constructor
  · rintro ⟨r, h, rfl⟩
    exact ⟨h, rfl, rfl⟩
  · rintro ⟨h, rfl, rfl⟩
    exact ⟨p.cell, h, rfl⟩

/-- A mode's index register is read with nothing but pointer reads before it. -/
theorem memReads_state {m : Mem} {s : State} {p : CellRead} (h : p ∈ memReads m s) :
    p.set = [] ∧ (p.state = s ∨ p.state = record (pointerEvents m s) s) := by
  cases m <;> simp only [memReads, List.not_mem_nil, mem_readsAt, effAddr_snd] at h <;> simp [h]

/-- A step reads no unset cell exactly when PC is set and every cell that the fetched instruction reads is set. -/
theorem unsetRead_eq_none (t : Tracked) :
    unsetRead t = none ↔ .pc ∈ t.set ∧ ∀ p ∈ cellReads (fetch t.state).1 (fetch t.state).2, p.cell ∈ t.set := by
  by_cases h : .pc ∈ t.set <;> simp [unsetRead, h]

/-- The cell of the first such read is unset. -/
theorem unsetRead_not_set {t : Tracked} {p : CellRead} (h : unsetRead t = some p) : p.cell ∉ t.set := by
  unfold unsetRead at h
  split at h
  · simpa using List.find?_some h
  · cases h; assumption

theorem trackedStep_of_fault {t : Tracked} {r : Fault} (h : t.state.fault = some r) : trackedStep t = .fault r := by
  simp [trackedStep, h]

theorem trackedStep_of_unset {t : Tracked} {p : CellRead} (h : t.state.fault = none) (hp : unsetRead t = some p) :
    trackedStep t = .fault (.uninitRead p.cell) := by
  simp [trackedStep, h, hp]

theorem trackedStep_of_set {t : Tracked} (h : t.state.fault = none) (hp : unsetRead t = none) :
    trackedStep t = trackOutcome (t.set ++ cellSets (fetch t.state).1) (step t.state) := by
  simp [trackedStep, h, hp]

theorem trackedHostStep_of_fault {t : Tracked} {r : Fault} (h : t.state.fault = some r) : trackedHostStep t = t := by
  simp [trackedHostStep, h]

theorem trackedHostStep_of_unset {t : Tracked} {p : CellRead} (h : t.state.fault = none) (hp : unsetRead t = some p) :
    trackedHostStep t = uninitState p t.set := by
  simp [trackedHostStep, h, hp]

theorem trackedHostStep_of_set {t : Tracked} (h : t.state.fault = none) (hp : unsetRead t = none) :
    trackedHostStep t = ⟨t.set ++ cellSets (fetch t.state).1, hostStep t.state⟩ := by
  simp [trackedHostStep, h, hp]

@[simp] theorem uninitState_fault (p : CellRead) (set : List RegCell) :
    (uninitState p set).state.fault = some (.uninitRead p.cell) := rfl
@[simp] theorem uninitState_set (p : CellRead) (set : List RegCell) : (uninitState p set).set = set ++ p.set := rfl
@[simp] theorem uninitState_pc (p : CellRead) (set : List RegCell) : (uninitState p set).state.pc = p.state.pc := rfl
@[simp] theorem uninitState_events (p : CellRead) (set : List RegCell) :
    (uninitState p set).state.events = p.state.events := rfl
@[simp] theorem uninitState_memory (p : CellRead) (set : List RegCell) :
    (uninitState p set).state.memory = p.state.memory := rfl

end Sys2Proof.Machine
end

