-- ==== Sys2Proof/Tests/Slice0.lean ====
section
/-! SUPPORT. Tests of the model. Every expected value is the spec's: the "Encoding" lines and the map of R89 for decoding, and
the vectors of 95_test_vectors.md (its ids stand in the comments) for the meanings. The witnesses at the end meet the
hypotheses of the statements in `Certificates/Slice0/Obligations.lean`. -/

namespace Sys2Proof.Tests
open Sys2Proof Sys2Proof.Machine Sys2Proof.Safety

/-! ### Well-formed instructions: each check refuses an ill-formed term (R95, R90, R194 to R196) -/

theorem test_refused_alu_modes :
    wellFormed (.adc (.mem (.zpy 0))) = false ∧ wellFormed (.sbc (.mem (.zpy 0))) = false ∧
    wellFormed (.and (.mem (.zpy 0))) = false ∧ wellFormed (.ora (.mem (.zpy 0))) = false ∧
    wellFormed (.eor (.mem (.zpy 0))) = false ∧ wellFormed (.cmp (.mem (.zpy 0))) = false ∧
    wellFormed (.lda (.mem (.zpy 0))) = false := by decide

theorem test_refused_compare_and_test_modes :
    wellFormed (.cpx (.mem (.zpx 0))) = false ∧ wellFormed (.cpy (.mem (.abx 0))) = false ∧
    wellFormed (.bit (.zpx 0)) = false := by decide

theorem test_refused_shift_and_count_modes :
    wellFormed (.asl (.mem (.aby 0))) = false ∧ wellFormed (.lsr (.mem (.izx 0))) = false ∧
    wellFormed (.rol (.mem (.izy 0))) = false ∧ wellFormed (.ror (.mem (.zpy 0))) = false ∧
    wellFormed (.inc (.aby 0)) = false ∧ wellFormed (.dec (.izx 0)) = false := by decide

theorem test_refused_load_and_store_modes :
    wellFormed (.ldx (.mem (.zpx 0))) = false ∧ wellFormed (.ldy (.mem (.zpy 0))) = false ∧
    wellFormed (.sta (.zpy 0)) = false ∧ wellFormed (.stx (.zpx 0)) = false ∧ wellFormed (.sty (.zpy 0)) = false := by
  decide

theorem test_refused_undocumented_modes :
    wellFormed (.slo (.zpy 0)) = false ∧ wellFormed (.sre (.zpy 0)) = false ∧ wellFormed (.rla (.zpy 0)) = false ∧
    wellFormed (.rra (.zpy 0)) = false ∧ wellFormed (.dcp (.zpy 0)) = false ∧ wellFormed (.isc (.zpy 0)) = false ∧
    wellFormed (.lax (.zpx 0)) = false ∧ wellFormed (.sax (.aby 0)) = false := by decide

theorem test_refused_opcode_bytes :
    wellFormed (.dop 0x80 (.mem (.zp 0))) = false ∧ wellFormed (.dop 0x04 (.mem (.abs 0))) = false ∧
    wellFormed (.top 0x1C (.mem (.abs 0))) = false ∧ wellFormed (.nopU 0xEA) = false ∧
    wellFormed (.unassigned 0xEA) = false := by decide

/-! ### Decoding: one word of each constructor at least, written from the "Encoding" line of its rule. The first byte is the
low one; the opcode byte stands in binary in the first word of each family. -/

/-- R107 to R111. -/
theorem test_decode_arithmetic :
    decodeTableWord 16 0b0100001001101001 = some (.adc (.imm 0x42)) ∧
    decodeTableWord 24 0x12346D = some (.adc (.mem (.abs 0x1234))) ∧
    decodeTableWord 16 0x10F5 = some (.sbc (.mem (.zpx 0x10))) ∧
    decodeTableWord 16 0x0F29 = some (.and (.imm 0x0F)) ∧
    decodeTableWord 16 0x8011 = some (.ora (.mem (.izy 0x80))) ∧
    decodeTableWord 24 0x123459 = some (.eor (.mem (.aby 0x1234))) := by
  decide

/-- R112 to R119. -/
theorem test_decode_shift :
    decodeTableWord 8 0b00001010 = some (.asl .acc) ∧
    decodeTableWord 16 0x1006 = some (.asl (.mem (.zp 0x10))) ∧
    decodeTableWord 8 0x4A = some (.lsr .acc) ∧
    decodeTableWord 24 0x02005E = some (.lsr (.mem (.abx 0x0200))) ∧
    decodeTableWord 8 0x2A = some (.rol .acc) ∧
    decodeTableWord 16 0x1036 = some (.rol (.mem (.zpx 0x10))) ∧
    decodeTableWord 8 0x6A = some (.ror .acc) ∧
    decodeTableWord 24 0x02006E = some (.ror (.mem (.abs 0x0200))) := by
  decide

/-- R120 to R123. -/
theorem test_decode_compare :
    decodeTableWord 16 0b0001000011001001 = some (.cmp (.imm 0x10)) ∧
    decodeTableWord 16 0x10E0 = some (.cpx (.imm 0x10)) ∧
    decodeTableWord 24 0x0200CC = some (.cpy (.mem (.abs 0x0200))) ∧
    decodeTableWord 16 0x1024 = some (.bit (.zp 0x10)) := by
  decide

/-- R124 to R129. -/
theorem test_decode_increment_and_decrement :
    decodeTableWord 16 0b0001000011100110 = some (.inc (.zp 0x10)) ∧
    decodeTableWord 24 0x0200DE = some (.dec (.abx 0x0200)) ∧
    decodeTableWord 8 0xE8 = some .inx ∧
    decodeTableWord 8 0xC8 = some .iny ∧
    decodeTableWord 8 0xCA = some .dex ∧
    decodeTableWord 8 0x88 = some .dey := by
  decide

/-- R136 to R143. -/
theorem test_decode_branch :
    decodeTableWord 16 0b0000010110010000 = some (.bcc 0x05) ∧
    decodeTableWord 16 0x05B0 = some (.bcs 0x05) ∧
    decodeTableWord 16 0x05F0 = some (.beq 0x05) ∧
    decodeTableWord 16 0xF8D0 = some (.bne 0xF8) ∧
    decodeTableWord 16 0x0530 = some (.bmi 0x05) ∧
    decodeTableWord 16 0x0510 = some (.bpl 0x05) ∧
    decodeTableWord 16 0x0550 = some (.bvc 0x05) ∧
    decodeTableWord 16 0x0570 = some (.bvs 0x05) := by
  decide

/-- R144 to R148. -/
theorem test_decode_jump :
    decodeTableWord 24 0b000100100011010001001100 = some (.jmp (.abs 0x1234)) ∧
    decodeTableWord 24 0x02FF6C = some (.jmp (.ind 0x02FF)) ∧
    decodeTableWord 24 0x070020 = some (.jsr 0x0700) ∧
    decodeTableWord 8 0x60 = some .rts ∧
    decodeTableWord 8 0x00 = some .brk ∧
    decodeTableWord 8 0x40 = some .rti := by
  decide

/-- R149 to R152. -/
theorem test_decode_stack :
    decodeTableWord 8 0b01001000 = some .pha ∧
    decodeTableWord 8 0x08 = some .php ∧
    decodeTableWord 8 0x68 = some .pla ∧
    decodeTableWord 8 0x28 = some .plp := by
  decide

/-- R160 to R166, R179. -/
theorem test_decode_flags :
    decodeTableWord 8 0b00011000 = some .clc ∧
    decodeTableWord 8 0xD8 = some .cld ∧
    decodeTableWord 8 0x58 = some .cli ∧
    decodeTableWord 8 0xB8 = some .clv ∧
    decodeTableWord 8 0x38 = some .sec ∧
    decodeTableWord 8 0xF8 = some .sed ∧
    decodeTableWord 8 0x78 = some .sei ∧
    decodeTableWord 8 0xEA = some .nop := by
  decide

/-- R167 to R172. -/
theorem test_decode_transfers :
    decodeTableWord 8 0b10101010 = some .tax ∧
    decodeTableWord 8 0xA8 = some .tay ∧
    decodeTableWord 8 0xBA = some .tsx ∧
    decodeTableWord 8 0x8A = some .txa ∧
    decodeTableWord 8 0x9A = some .txs ∧
    decodeTableWord 8 0x98 = some .tya := by
  decide

/-- R173 to R178. -/
theorem test_decode_loads_and_stores :
    decodeTableWord 16 0b0000000010101001 = some (.lda (.imm 0x00)) ∧
    decodeTableWord 16 0x10B6 = some (.ldx (.mem (.zpy 0x10))) ∧
    decodeTableWord 24 0x0200BC = some (.ldy (.mem (.abx 0x0200))) ∧
    decodeTableWord 16 0x3091 = some (.sta (.izy 0x30)) ∧
    decodeTableWord 16 0xFF96 = some (.stx (.zpy 0xFF)) ∧
    decodeTableWord 16 0x8094 = some (.sty (.zpx 0x80)) := by
  decide

/-- R186 to R197, R90. -/
theorem test_decode_undocumented :
    decodeTableWord 16 0b0001000000000111 = some (.slo (.zp 0x10)) ∧
    decodeTableWord 24 0x02005B = some (.sre (.aby 0x0200)) ∧
    decodeTableWord 16 0x1023 = some (.rla (.izx 0x10)) ∧
    decodeTableWord 16 0x1073 = some (.rra (.izy 0x10)) ∧
    decodeTableWord 16 0x30D3 = some (.dcp (.izy 0x30)) ∧
    decodeTableWord 16 0x30F3 = some (.isc (.izy 0x30)) ∧
    decodeTableWord 16 0x10B7 = some (.lax (.zpy 0x10)) ∧
    decodeTableWord 16 0x1083 = some (.sax (.izx 0x10)) ∧
    decodeTableWord 16 0xFF80 = some (.dop 0x80 (.imm 0xFF)) ∧
    decodeTableWord 16 0x1014 = some (.dop 0x14 (.mem (.zpx 0x10))) ∧
    decodeTableWord 24 0x20000C = some (.top 0x0C (.mem (.abs 0x2000))) ∧
    decodeTableWord 8 0x1A = some (.nopU 0x1A) ∧
    decodeTableWord 16 0x01EB = some (.sbcU 0x01) ∧
    decodeTableWord 8 0x02 = some (.unassigned 0x02) := by
  decide

/-- The decoder rejects by name what is too short (R65, R74). -/
theorem test_decode_too_short :
    decode [] = .error .noOpcode ∧ decode [0x69] = .error (.operandMissing 0x69) ∧
    decode [0x4C, 0x00] = .error (.operandMissing 0x4C) := ⟨rfl, rfl, rfl⟩

/-! ### The meanings -/

/-- A block at 0x0600 with the stack pointer as after reset, all flags clear, over the given memory. -/
def blockOver (m : Memory) : State :=
  { State.reset with pc := 0x0600, i := false, memory := m, events := [] }

/-- What is seen of the next state that an instruction gives; none where it stops. -/
def seen {α : Type} (g : State → α) : Host.Outcome State Fault Refusal → Option α
  | .next t => some (g t)
  | .fault _ => none
  | .refused _ => none

/-- A and the flags C, Z, V, N. -/
def accAndFlags (t : State) : Byte × Bool × Bool × Bool × Bool := (t.a, t.c, t.z, t.v, t.n)

/-- The byte at 0x0010, A, and the flags C, Z, V, N. -/
def cellAndFlags (t : State) : Byte × Byte × Bool × Bool × Bool × Bool := (t.memory.read 0x10, t.a, t.c, t.z, t.v, t.n)

/-- AD5. -/
theorem test_adc_AD5 :
    seen accAndFlags (exec (.adc (.imm 0x80)) { blockOver [] with a := 0x80 }) =
      some (0x00, true, true, true, false) := by decide

/-- AD6. -/
theorem test_adc_AD6 :
    seen accAndFlags (exec (.adc (.imm 0x00)) { blockOver [] with a := 0x7F, c := true }) =
      some (0x80, false, false, true, true) := by decide

/-- SB3. -/
theorem test_sbc_SB3 :
    seen accAndFlags (exec (.sbc (.imm 0xB0)) { blockOver [] with a := 0x50, c := true }) =
      some (0xA0, false, false, true, true) := by decide

/-- SB6. -/
theorem test_sbc_SB6 :
    seen accAndFlags (exec (.sbc (.imm 0x00)) { blockOver [] with a := 0x00 }) =
      some (0xFF, false, false, false, true) := by decide

/-- SB5. -/
theorem test_sbcU_SB5 :
    seen accAndFlags (exec (.sbcU 0x01) { blockOver [] with a := 0x80, c := true }) =
      some (0x7F, true, false, true, false) := by decide

/-- LG1. -/
theorem test_and_LG1 :
    seen accAndFlags (exec (.and (.imm 0x0F)) { blockOver [] with a := 0xF0 }) =
      some (0x00, false, true, false, false) := by decide

/-- LG2. -/
theorem test_ora_LG2 :
    seen accAndFlags (exec (.ora (.imm 0x01)) { blockOver [] with a := 0x80 }) =
      some (0x81, false, false, false, true) := by decide

/-- LG3. -/
theorem test_eor_LG3 :
    seen accAndFlags (exec (.eor (.imm 0xFF)) { blockOver [] with a := 0xFF }) =
      some (0x00, false, true, false, false) := by decide

/-- SH2. -/
theorem test_asl_SH2 :
    seen accAndFlags (exec (.asl .acc) { blockOver [] with a := 0x01, c := true }) =
      some (0x02, false, false, false, false) := by decide

/-- SH3, memory form. -/
theorem test_asl_memory_SH3 :
    seen cellAndFlags (exec (.asl (.mem (.zp 0x10))) { blockOver [(0x10, 0xFF)] with a := 0x42 }) =
      some (0xFE, 0x42, true, false, false, true) := by decide

/-- SH5. -/
theorem test_lsr_SH5 :
    seen accAndFlags (exec (.lsr .acc) { blockOver [] with a := 0x80, c := true }) =
      some (0x40, false, false, false, false) := by decide

/-- SH4, memory form. -/
theorem test_lsr_memory_SH4 :
    seen cellAndFlags (exec (.lsr (.mem (.zp 0x10))) { blockOver [(0x10, 0x01)] with a := 0x42 }) =
      some (0x00, 0x42, true, true, false, false) := by decide

/-- SH8. -/
theorem test_rol_SH8 :
    seen accAndFlags (exec (.rol .acc) { blockOver [] with a := 0x80, c := true }) =
      some (0x01, true, false, false, false) := by decide

/-- SH9, memory form. -/
theorem test_rol_memory_SH9 :
    seen cellAndFlags (exec (.rol (.mem (.zp 0x10))) { blockOver [] with c := true }) =
      some (0x01, 0x00, false, false, false, false) := by decide

/-- SH12. -/
theorem test_ror_SH12 :
    seen accAndFlags (exec (.ror .acc) { blockOver [] with a := 0x01, c := true }) =
      some (0x80, true, false, false, true) := by decide

/-- SH14, memory form. -/
theorem test_ror_memory_SH14 :
    seen cellAndFlags (exec (.ror (.mem (.zp 0x10))) (blockOver [(0x10, 0xFF)])) =
      some (0x7F, 0x00, true, false, false, false) := by decide

/-- CP2. -/
theorem test_cmp_CP2 :
    seen accAndFlags (exec (.cmp (.imm 0x11)) { blockOver [] with a := 0x10, v := true }) =
      some (0x10, false, false, true, true) := by decide

/-- CP6. -/
theorem test_cmp_CP6 :
    seen accAndFlags (exec (.cmp (.imm 0x01)) { blockOver [] with a := 0x80 }) =
      some (0x80, true, false, false, false) := by decide

/-- CP3. -/
theorem test_cpx_CP3 :
    seen accAndFlags (exec (.cpx (.imm 0x10)) { blockOver [] with x := 0x11 }) =
      some (0x00, true, false, false, false) := by decide

/-- CP4. -/
theorem test_cpy_CP4 :
    seen accAndFlags (exec (.cpy (.imm 0xFF)) { blockOver [] with y := 0x00 }) =
      some (0x00, false, false, false, false) := by decide

/-- BT1. -/
theorem test_bit_BT1 :
    seen cellAndFlags (exec (.bit (.zp 0x10)) { blockOver [(0x10, 0xC0)] with a := 0x0F }) =
      some (0xC0, 0x0F, false, true, true, true) := by decide

/-- BT3. -/
theorem test_bit_BT3 :
    seen cellAndFlags (exec (.bit (.zp 0x10)) { blockOver [(0x10, 0x81)] with a := 0x01, c := true }) =
      some (0x81, 0x01, true, false, false, true) := by decide

/-- ID1. -/
theorem test_inc_ID1 :
    seen cellAndFlags (exec (.inc (.zp 0x10)) { blockOver [(0x10, 0xFF)] with c := true }) =
      some (0x00, 0x00, true, true, false, false) := by decide

/-- ID2. -/
theorem test_inc_ID2 :
    seen cellAndFlags (exec (.inc (.zp 0x10)) (blockOver [(0x10, 0x7F)])) =
      some (0x80, 0x00, false, false, false, true) := by decide

/-- ID3. -/
theorem test_dec_ID3 :
    seen cellAndFlags (exec (.dec (.zp 0x10)) (blockOver [])) =
      some (0xFF, 0x00, false, false, false, true) := by decide

/-- ID4. -/
theorem test_dec_ID4 :
    seen cellAndFlags (exec (.dec (.zp 0x10)) (blockOver [(0x10, 0x01)])) =
      some (0x00, 0x00, false, true, false, false) := by decide

/-- ID5. -/
theorem test_inx_ID5 :
    seen (fun t => (t.a, t.x, t.y, t.sp, t.z, t.n)) (exec .inx { blockOver [] with x := 0xFF }) =
      some (0x00, 0x00, 0x00, 0xFD, true, false) := by decide

/-- ID6. -/
theorem test_iny_ID6 :
    seen (fun t => (t.a, t.x, t.y, t.sp, t.z, t.n)) (exec .iny { blockOver [] with y := 0x7F }) =
      some (0x00, 0x00, 0x80, 0xFD, false, true) := by decide

/-- ID7. -/
theorem test_dex_ID7 :
    seen (fun t => (t.a, t.x, t.y, t.sp, t.z, t.n)) (exec .dex { blockOver [] with x := 0x00 }) =
      some (0x00, 0xFF, 0x00, 0xFD, false, true) := by decide

/-- ID8. -/
theorem test_dey_ID8 :
    seen (fun t => (t.a, t.x, t.y, t.sp, t.z, t.n)) (exec .dey { blockOver [] with y := 0x01 }) =
      some (0x00, 0x00, 0x00, 0xFD, true, false) := by decide

/-- BR3. -/
theorem test_bcc_BR3 :
    seen (fun t => (t.pc, t.cycles)) (exec (.bcc 0xFD) { blockOver [] with pc := 0x0602 }) =
      some (0x05FF, 2) := by decide

/-- BR9. -/
theorem test_bcs_BR9 :
    seen (fun t => (t.pc, t.cycles)) (exec (.bcs 0x05) { blockOver [] with pc := 0x0602 }) =
      some (0x0602, 0) := by decide

/-- BR7. -/
theorem test_bcs_BR7 :
    seen (fun t => (t.pc, t.cycles)) (exec (.bcs 0x03) { blockOver [] with pc := 0xFFFE, c := true }) =
      some (0x0001, 2) := by decide

/-- BR4. -/
theorem test_beq_BR4 :
    seen (fun t => (t.pc, t.cycles)) (exec (.beq 0x01) { blockOver [] with pc := 0x06FE, z := true }) =
      some (0x06FF, 1) := by decide

/-- BR10. -/
theorem test_bne_BR10 :
    seen (fun t => (t.pc, t.cycles)) (exec (.bne 0xFE) { blockOver [] with pc := 0x0602 }) =
      some (0x0600, 1) := by decide

/-- BR5. -/
theorem test_bmi_BR5 :
    seen (fun t => (t.pc, t.cycles)) (exec (.bmi 0x80) { blockOver [] with pc := 0x0600, n := true }) =
      some (0x0580, 2) := by decide

/-- BR6. -/
theorem test_bpl_BR6 :
    seen (fun t => (t.pc, t.cycles)) (exec (.bpl 0x7F) { blockOver [] with pc := 0x06F0 }) =
      some (0x076F, 2) := by decide

/-- BR8. -/
theorem test_bvc_BR8 :
    seen (fun t => (t.pc, t.cycles)) (exec (.bvc 0xF0) { blockOver [] with pc := 0x0002 }) =
      some (0xFFF2, 2) := by decide

/-- BR1. -/
theorem test_bvs_BR1 :
    seen (fun t => (t.pc, t.cycles)) (exec (.bvs 0x05) { blockOver [] with pc := 0x0602, v := true }) =
      some (0x0607, 1) := by decide

/-- T9. -/
theorem test_jmp_T9 :
    seen (fun t => (t.pc, t.events)) (exec (.jmp (.abs 0x1234)) (blockOver [])) =
      some (0x1234, []) := by decide

/-- AM9: the high byte comes from 0x0200. -/
theorem test_jmp_AM9 :
    seen (fun t => (t.pc, t.events)) (exec (.jmp (.ind 0x02FF)) (blockOver [(0x0200, 0x08), (0x0300, 0x09)])) =
      some (0x0800, [.read 0x02FF 0x00, .read 0x0200 0x08]) := by decide

/-- T1: JSR at 0x0600, PC advanced to 0x0603. -/
theorem test_jsr_T1 :
    seen (fun t => (t.pc, t.sp, t.memory)) (exec (.jsr 0x0700) { blockOver [] with pc := 0x0603 }) =
      some (0x0700, 0xFB, [(0x01FC, 0x02), (0x01FD, 0x06)]) := by decide

/-- T3: SP wraps in the stack page. -/
theorem test_jsr_T3 :
    seen (fun t => (t.sp, t.memory)) (exec (.jsr 0x0700) { blockOver [] with pc := 0x0603, sp := 0x00 }) =
      some (0xFE, [(0x0100, 0x06), (0x01FF, 0x02)]) := by decide

/-- T2. -/
theorem test_rts_T2 :
    seen (fun t => (t.pc, t.sp)) (exec .rts { blockOver [(0x01FC, 0x02), (0x01FD, 0x06)] with sp := 0xFB }) =
      some (0x0603, 0xFD) := by decide

/-- T5: BRK at 0x0614, PC advanced to 0x0615. -/
theorem test_brk_T5 :
    seen (fun t => ((t.pc, t.sp, t.b, t.i), t.memory)) (exec .brk { blockOver [(0xFFFF, 0x07)] with pc := 0x0615, v := true, i := true, c := true }) =
      some ((0x0700, 0xFA, true, true), [(0x01FB, 0x75), (0x01FC, 0x15), (0x01FD, 0x06), (0xFFFF, 0x07)]) := by decide

/-- T7. -/
theorem test_brk_T7 :
    seen (fun t => (t.sp, t.memory)) (exec .brk { blockOver [] with pc := 0x0615, sp := 0x01 }) =
      some (0xFE, [(0x0100, 0x15), (0x0101, 0x06), (0x01FF, 0x30)]) := by decide

/-- T6. -/
theorem test_rti_T6 :
    seen (fun t => (t.pc, t.sp, statusByte t, t.b)) (exec .rti { blockOver [(0x01FB, 0x75), (0x01FC, 0x15), (0x01FD, 0x06)] with sp := 0xFA, b := true }) =
      some (0x0615, 0xFD, 0x65, false) := by decide

/-- K1. -/
theorem test_pha_K1 :
    seen (fun t => (t.sp, t.memory)) (exec .pha { blockOver [] with a := 0x42, sp := 0x00 }) =
      some (0xFF, [(0x0100, 0x42)]) := by decide

/-- K2. -/
theorem test_pla_K2 :
    seen (fun t => (t.a, t.x, t.y, t.sp, t.z, t.n)) (exec .pla { blockOver [(0x0100, 0x80)] with sp := 0xFF }) =
      some (0x80, 0x00, 0x00, 0x00, false, true) := by decide

/-- K3. -/
theorem test_php_K3 :
    seen (fun t => (t.sp, t.memory)) (exec .php (blockOver [])) =
      some (0xFC, [(0x01FD, 0x30)]) := by decide

/-- K4. -/
theorem test_php_K4 :
    seen (fun t => t.memory) (exec .php { blockOver [] with c := true, z := true, i := true, d := true, v := true, n := true }) =
      some [(0x01FD, 0xFF)] := by decide

/-- K6. -/
theorem test_plp_K6 :
    seen (fun t => (statusByte t, t.b)) (exec .plp { blockOver [(0x01FE, 0xFF)] with b := true }) =
      some (0xEF, false) := by decide

/-- K8. -/
theorem test_plp_K8 :
    seen (fun t => (statusByte t, t.sp)) (exec .plp { blockOver [(0x01FE, 0x10)] with c := true }) =
      some (0x20, 0xFE) := by decide

/-- FL1, as the status byte. -/
theorem test_clc_FL1 : seen (fun t => statusByte t) (exec .clc { blockOver [] with c := true }) = some 0x20 := by decide

/-- FL1, as the status byte. -/
theorem test_cld_FL1 : seen (fun t => statusByte t) (exec .cld { blockOver [] with d := true }) = some 0x20 := by decide

/-- FL1, as the status byte. -/
theorem test_cli_FL1 : seen (fun t => statusByte t) (exec .cli { blockOver [] with i := true }) = some 0x20 := by decide

/-- FL1, as the status byte. -/
theorem test_clv_FL1 : seen (fun t => statusByte t) (exec .clv { blockOver [] with v := true }) = some 0x20 := by decide

/-- FL1, as the status byte. -/
theorem test_sec_FL1 : seen (fun t => statusByte t) (exec .sec (blockOver [])) = some 0x21 := by decide

/-- FL1, as the status byte. -/
theorem test_sed_FL1 : seen (fun t => statusByte t) (exec .sed (blockOver [])) = some 0x28 := by decide

/-- FL1, as the status byte. -/
theorem test_sei_FL1 : seen (fun t => statusByte t) (exec .sei (blockOver [])) = some 0x24 := by decide

/-- TR1. -/
theorem test_tax_TR1 :
    seen (fun t => (t.a, t.x, t.y, t.sp, t.z, t.n)) (exec .tax { blockOver [] with x := 0x55, n := true }) =
      some (0x00, 0x00, 0x00, 0xFD, true, false) := by decide

/-- R168. -/
theorem test_tay :
    seen (fun t => (t.a, t.x, t.y, t.sp, t.z, t.n)) (exec .tay { blockOver [] with a := 0x80 }) =
      some (0x80, 0x00, 0x80, 0xFD, false, true) := by decide

/-- TR2. -/
theorem test_tsx_TR2 :
    seen (fun t => (t.a, t.x, t.y, t.sp, t.z, t.n)) (exec .tsx (blockOver [])) =
      some (0x00, 0xFD, 0x00, 0xFD, false, true) := by decide

/-- TR4. -/
theorem test_txa_TR4 :
    seen (fun t => (t.a, t.x, t.y, t.sp, t.z, t.n)) (exec .txa { blockOver [] with x := 0x80 }) =
      some (0x80, 0x80, 0x00, 0xFD, false, true) := by decide

/-- TR3: no flag changes. -/
theorem test_txs_TR3 :
    seen (fun t => (t.a, t.x, t.y, t.sp, t.z, t.n)) (exec .txs { blockOver [] with x := 0x00 }) =
      some (0x00, 0x00, 0x00, 0x00, false, false) := by decide

/-- R172. -/
theorem test_tya :
    seen (fun t => (t.a, t.x, t.y, t.sp, t.z, t.n)) (exec .tya { blockOver [] with y := 0x01, z := true }) =
      some (0x01, 0x00, 0x01, 0xFD, false, false) := by decide

/-- LD1. -/
theorem test_lda_LD1 :
    seen (fun t => (t.a, t.x, t.y, t.sp, t.z, t.n)) (exec (.lda (.imm 0x00)) { blockOver [] with a := 0x11 }) =
      some (0x00, 0x00, 0x00, 0xFD, true, false) := by decide

/-- AM7: the pointer wraps in page 0, low byte first. -/
theorem test_lda_AM7 :
    seen (fun t => (t.a, t.events)) (exec (.lda (.mem (.izy 0xFF))) (blockOver [(0x0000, 0x12), (0x00FF, 0x34), (0x1234, 0x80)])) =
      some (0x80, [.read 0x00FF 0x34, .read 0x0000 0x12, .read 0x1234 0x80]) := by decide

/-- LD2. -/
theorem test_ldx_LD2 :
    seen (fun t => (t.a, t.x, t.y, t.sp, t.z, t.n)) (exec (.ldx (.imm 0x80)) (blockOver [])) =
      some (0x00, 0x80, 0x00, 0xFD, false, true) := by decide

/-- AM2. -/
theorem test_ldx_AM2 :
    seen (fun t => (t.a, t.x, t.y, t.sp, t.z, t.n)) (exec (.ldx (.mem (.zpy 0xFF))) { blockOver [(0x0000, 0x12)] with y := 0x01 }) =
      some (0x00, 0x12, 0x01, 0xFD, false, false) := by decide

/-- LD3. -/
theorem test_ldy_LD3 :
    seen (fun t => (t.a, t.x, t.y, t.sp, t.z, t.n)) (exec (.ldy (.mem (.zp 0x10))) { blockOver [(0x10, 0x7F)] with z := true }) =
      some (0x00, 0x00, 0x7F, 0xFD, false, false) := by decide

/-- AM4. -/
theorem test_ldy_AM4 :
    seen (fun t => (t.a, t.x, t.y, t.sp, t.z, t.n)) (exec (.ldy (.mem (.abx 0xFFFF))) { blockOver [(0x0001, 0x09)] with x := 0x02 }) =
      some (0x00, 0x02, 0x09, 0xFD, false, false) := by decide

/-- ST1. -/
theorem test_sta_ST1 :
    seen (fun t => (t.memory, t.z, t.events)) (exec (.sta (.abs 0x0200)) { blockOver [] with a := 0x42, z := true }) =
      some ([(0x0200, 0x42)], true, [.write 0x0200 0x42]) := by decide

/-- AM8. -/
theorem test_sta_AM8 :
    seen (fun t => t.memory) (exec (.sta (.izy 0x10)) { blockOver [(0x10, 0xFF), (0x11, 0x01)] with y := 0x01, a := 0x42 }) =
      some [(0x10, 0xFF), (0x11, 0x01), (0x0200, 0x42)] := by decide

/-- ST2. -/
theorem test_stx_ST2 :
    seen (fun t => t.memory) (exec (.stx (.zpy 0xFF)) { blockOver [] with x := 0x05, y := 0x01 }) =
      some [(0x0000, 0x05)] := by decide

/-- ST3. -/
theorem test_sty_ST3 :
    seen (fun t => t.memory) (exec (.sty (.zpx 0x80)) { blockOver [] with y := 0x03, x := 0x90 }) =
      some [(0x0010, 0x03)] := by decide

/-- R179. -/
theorem test_nop : seen id (exec .nop (blockOver [])) = some (blockOver []) := by decide

/-- U1. -/
theorem test_slo_U1 :
    seen cellAndFlags (exec (.slo (.zp 0x10)) { blockOver [(0x10, 0x81)] with a := 0x02, c := false }) =
      some (0x02, 0x02, true, false, false, false) := by decide

/-- U2. -/
theorem test_slo_U2 :
    seen cellAndFlags (exec (.slo (.zp 0x10)) { blockOver [(0x10, 0x80)] with a := 0x00, c := false }) =
      some (0x00, 0x00, true, true, false, false) := by decide

/-- U3. -/
theorem test_sre_U3 :
    seen cellAndFlags (exec (.sre (.zp 0x10)) { blockOver [(0x10, 0x03)] with a := 0x01, c := false }) =
      some (0x01, 0x00, true, true, false, false) := by decide

/-- U4. -/
theorem test_sre_U4 :
    seen cellAndFlags (exec (.sre (.zp 0x10)) { blockOver [(0x10, 0x01)] with a := 0x80, c := false }) =
      some (0x00, 0x80, true, false, false, true) := by decide

/-- U5. -/
theorem test_rla_U5 :
    seen cellAndFlags (exec (.rla (.zp 0x10)) { blockOver [(0x10, 0x80)] with a := 0xFF, c := true }) =
      some (0x01, 0x01, true, false, false, false) := by decide

/-- U6. -/
theorem test_rla_U6 :
    seen cellAndFlags (exec (.rla (.zp 0x10)) { blockOver [(0x10, 0x80)] with a := 0xFF, c := false }) =
      some (0x00, 0x00, true, true, false, false) := by decide

/-- U7. -/
theorem test_rra_U7 :
    seen cellAndFlags (exec (.rra (.zp 0x10)) { blockOver [(0x10, 0x02)] with a := 0x10, c := true }) =
      some (0x81, 0x91, false, false, false, true) := by decide

/-- U8. -/
theorem test_rra_U8 :
    seen cellAndFlags (exec (.rra (.zp 0x10)) { blockOver [(0x10, 0x01)] with a := 0x7F, c := false }) =
      some (0x00, 0x80, false, false, true, true) := by decide

/-- U9. -/
theorem test_dcp_U9 :
    seen cellAndFlags (exec (.dcp (.zp 0x10)) { blockOver [] with a := 0xFF, c := false }) =
      some (0xFF, 0xFF, true, true, false, false) := by decide

/-- U10. -/
theorem test_dcp_U10 :
    seen cellAndFlags (exec (.dcp (.zp 0x10)) { blockOver [] with a := 0x00, c := false }) =
      some (0xFF, 0x00, false, false, false, false) := by decide

/-- U12. -/
theorem test_isc_U12 :
    seen cellAndFlags (exec (.isc (.zp 0x10)) { blockOver [(0x10, 0xFF)] with a := 0x00, c := true }) =
      some (0x00, 0x00, true, true, false, false) := by decide

/-- U13. -/
theorem test_isc_U13 :
    seen cellAndFlags (exec (.isc (.zp 0x10)) { blockOver [(0x10, 0x7E)] with a := 0x80, c := true }) =
      some (0x7F, 0x01, true, false, true, false) := by decide

/-- U16: one read. -/
theorem test_lax_U16 :
    seen (fun t => (t.a, t.x, t.z, t.n, t.events)) (exec (.lax (.zp 0x10)) (blockOver [(0x10, 0x80)])) =
      some (0x80, 0x80, false, true, [.read 0x0010 0x80]) := by decide

/-- U17: one write. -/
theorem test_sax_U17 :
    seen (fun t => (t.memory, t.a, t.events)) (exec (.sax (.zp 0x10)) { blockOver [] with a := 0xF0, x := 0x3C }) =
      some ([(0x10, 0x30)], 0xF0, [.write 0x0010 0x30]) := by decide

/-- U18. -/
theorem test_dop_U18 : seen id (exec (.dop 0x80 (.imm 0xFF)) (blockOver [])) = some (blockOver []) := by decide

/-- U19: one read of 0x2000. -/
theorem test_top_U19 :
    seen (fun t => t) (exec (.top 0x0C (.mem (.abs 0x2000))) (blockOver [])) =
      some { blockOver [] with events := [.read 0x2000 0x00] } := by decide

/-- U20. -/
theorem test_nopU_U20 : seen id (exec (.nopU 0x1A) (blockOver [])) = some (blockOver []) := by decide

/-! ### Steps, faults and reset -/

/-- U18: `80 FF` at 0x0600. -/
theorem test_step_dop_U18 :
    seen (fun t => (t.pc, t.events)) (step (blockOver [(0x0600, 0x80), (0x0601, 0xFF)])) =
      some (0x0602, [.read 0x0600 0x80, .read 0x0601 0xFF]) := by decide

/-- BR2, as a step: `90 FB` at 0x0600 branches back over a page, from the advanced PC. -/
theorem test_step_branch_back :
    seen (fun t => (t.pc, t.cycles)) (step (blockOver [(0x0600, 0x90), (0x0601, 0xFB)])) = some (0x05FD, 2) := by decide

/-- T8: BRK at 0xFFFF pushes PC wrapped to 0x0000; zeros written over zeros leave nothing listed but the status byte. -/
theorem test_step_brk_T8 :
    seen (fun t => (t.sp, t.memory)) (step { blockOver [] with pc := 0xFFFF }) = some (0xFA, [(0x01FB, 0x30)]) := by decide

/-- FT1. -/
theorem test_unassigned_FT1 :
    hostStep (blockOver [(0x0600, 0x02)]) =
      { blockOver [(0x0600, 0x02)] with
        fault := some (.unassignedOpcode 0x02), events := [.read 0x0600 0x02] } := by decide

/-- FT2: INX right after reset reads X, which holds no value in the spec's sense; PC is the advanced PC. -/
theorem test_unset_FT2 :
    let t := trackedHostStep (trackedReset (trackedPowerOn [(0x0600, 0xE8), (0xFFFD, 0x06)] []))
    (t.view.fault, t.view.pc, t.view.x, t.view.sp) = (some (.uninitRead .x), some 0x0601, none, some 0xFD) := by decide

/-- FT3: a step of a block that is just constructed: PC is left unset. -/
theorem test_unset_FT3 :
    let t := trackedHostStep (trackedPowerOn [] [])
    (t.view.fault, t.view.pc, t.state.events) = (some (.uninitRead .pc), none, []) := by decide

/-- R186 with A unset: the fault comes in ORA, after the three bus events, and ASL has set C (44_undocumented.md). -/
theorem test_unset_slo :
    let t := trackedHostStep ⟨[.pc], blockOver [(0x0010, 0x81), (0x0600, 0x07), (0x0601, 0x10)]⟩
    (t.view.fault, t.view.c, t.view.a, t.state.events.drop 2) =
      (some (.uninitRead .a), some true, none, [.read 0x0010 0x81, .write 0x0010 0x02, .read 0x0010 0x02]) := by decide

/-- R147 with the flags unset: PC is pushed before the status byte is made. -/
theorem test_unset_brk :
    let t := trackedHostStep ⟨[.pc, .sp], blockOver []⟩
    (t.view.fault, t.view.sp, t.state.events.drop 1) =
      (some (.uninitRead .n), some 0xFB, [.write 0x01FD 0x06, .write 0x01FC 0x01]) := by decide

/-- R88 with Y unset: it is added after the two pointer reads. -/
theorem test_unset_izy :
    let t := trackedHostStep ⟨[.pc], blockOver [(0x0600, 0xB1), (0x0601, 0x30)]⟩
    (t.view.fault, t.state.events.drop 2) = (some (.uninitRead .y), [.read 0x0030 0x00, .read 0x0031 0x00]) := by decide

/-- RS1. -/
theorem test_reset_RS1 :
    hostReset (powerOn [(0xFFFD, 0x06)] []) =
      { powerOn [(0xFFFD, 0x06)] [] with
        sp := 0xFD, i := true, b := false, pc := 0x0600, events := [.read 0xFFFC 0x00, .read 0xFFFD 0x06] } := by decide

/-- A write in the I/O region is recorded and changes no byte (R48). -/
theorem test_store_to_io :
    seen (fun t => (t.memory, t.events)) (exec (.sta (.abs 0x2000)) { blockOver [] with a := 0x42, ioRegion := [⟨0x2000, 0x2007⟩] }) =
      some ([], [.write 0x2000 0x42]) := by decide

/-- A read in the I/O region is a draw, whatever memory holds there (R47, R48). -/
theorem test_load_from_io :
    seen (fun t => t.x) (exec (.ldx (.mem (.abs 0x2000))) { blockOver [(0x2000, 0x42)] with ioRegion := [⟨0x2000, 0x2007⟩] }) =
      some (Config.ioByte [] 0x2000) := rfl

/-- A word placed for the next fetch runs next, from reset. -/
theorem test_fetch_word :
    seen (fun t => (t.a, t.pc)) (step (State.reset.withFetchWord 16 0x42A9)) = some (0x42, 0x0002) := by decide

/-! ### Witnesses: for each statement with hypotheses, a state and operands that meet all of them -/

/-- The next state that an instruction gives, or the given state where it stops. -/
def nextOr (s : State) : Host.Outcome State Fault Refusal → State
  | .next t => t
  | .fault _ => s
  | .refused _ => s

/-- An outcome of which something is seen is the next state. -/
theorem next_of_seen (s : State) (o : Host.Outcome State Fault Refusal) (h : seen (fun _ => true) o = some true) :
    o = .next (nextOr s o) := by
  cases o with
  | next _ => rfl
  | fault _ => cases h
  | refused _ => cases h

/-- `BranchesTakenAndNotTaken`: each branch is taken in one state and not taken in another. -/
theorem witness_BranchesTakenAndNotTaken :
    let clear := blockOver []
    let full := { blockOver [] with c := true, z := true, n := true, v := true }
    ((!clear.c) = true ∧ clear.c = false ∧ clear.z = false ∧ (!clear.z) = true ∧ clear.n = false ∧ (!clear.n) = true ∧
      (!clear.v) = true ∧ clear.v = false) ∧
    ((!full.c) = false ∧ full.c = true ∧ full.z = true ∧ (!full.z) = false ∧ full.n = true ∧ (!full.n) = false ∧
      (!full.v) = false ∧ full.v = true) := by decide

/-- `JsrThenRtsReturns`: T4; RTS runs in the very state JSR leaves. -/
theorem witness_JsrThenRtsReturns :
    let s := { blockOver [] with pc := 0x0603 }
    let t := nextOr s (exec (.jsr 0x0700) s)
    exec (.jsr 0x0700) s = .next t ∧ isIo s.ioRegion (stackAddr s.sp) = false ∧
      isIo s.ioRegion (stackAddr (s.sp - 1)) = false ∧ t.sp = t.sp ∧ t.ioRegion = t.ioRegion :=
  ⟨rfl, rfl, rfl, rfl, rfl⟩

/-- `BrkThenRtiResumes`: T5 and T6; RTI runs in the very state BRK leaves. -/
theorem witness_BrkThenRtiResumes :
    let s := { blockOver [] with pc := 0x0615, v := true, c := true }
    let t := nextOr s (exec .brk s)
    exec .brk s = .next t ∧ ∀ k : Byte, k.toNat < 3 → isIo s.ioRegion (stackAddr (s.sp - k)) = false :=
  ⟨rfl, fun _ _ => rfl⟩

theorem witness_PhpThenPlpRoundTrip : isIo (blockOver []).ioRegion (stackAddr (blockOver []).sp) = false := rfl

/-- `StoredByteIsReadBack`: the first program byte is overwritten, and is the next one fetched. -/
theorem witness_StoredByteIsReadBack :
    let s := { blockOver [] with a := 0xE8 }
    isIo s.ioRegion (effAddr (.abs 0x0600) s).1 = false ∧
      (nextOr s (exec (.sta (.abs 0x0600)) s)).pc = (effAddr (.abs 0x0600) s).1 := ⟨rfl, rfl⟩

theorem witness_CompositionResultsInRam :
    isIo (blockOver []).ioRegion (effAddr (.zp 0x10) (blockOver [])).1 = false := rfl

theorem witness_CompositionsReadWriteRead :
    isIo (blockOver []).ioRegion (effAddr (.izy 0x10) (blockOver [])).1 = false := rfl

/-- `BusEventsOfEveryInstruction`, `OnlyNamedWritersWrite` and the first clause of `OnlyStoredAddressesChange`: SLO completes,
X is no register it writes, and 0x0011 is no address it stores to. -/
theorem witness_FramesOfAnInstruction :
    let s := blockOver [(0x10, 0x81)]
    exec (.slo (.zp 0x10)) s = .next (nextOr s (exec (.slo (.zp 0x10)) s)) ∧ writes (.slo (.zp 0x10)) .x = false ∧
      ∀ a ∈ storeAddrs (.slo (.zp 0x10)) s, (0x11 : Nat) ≠ a.toNat := by
  refine ⟨next_of_seen _ _ rfl, by decide, fun a ha => ?_⟩
  obtain rfl : a = zext16 0x10 := List.mem_singleton.mp ha
  decide

/-- `OnlyStoredAddressesChange`, second clause: a store into the I/O region. -/
theorem witness_OnlyStoredAddressesChange_io :
    let s := { blockOver [] with a := 0x42, ioRegion := [⟨0x2000, 0x2007⟩] }
    exec (.sta (.abs 0x2007)) s = .next (nextOr s (exec (.sta (.abs 0x2007)) s)) ∧ isIo s.ioRegion 0x2007 = true :=
  ⟨rfl, by decide⟩

/-- `OnlyBranchesAddCycles`: a step that is a branch, and one that is not. -/
theorem witness_OnlyBranchesAddCycles :
    let s := blockOver [(0x0600, 0x90), (0x0601, 0x05)]
    let u := blockOver [(0x0600, 0xEA)]
    (step s = .next (nextOr s (step s)) ∧ (nextOr s (step s)).cycles = 1) ∧
    (step u = .next (nextOr u (step u)) ∧ (fetch u).1.mode ≠ .rel) := ⟨⟨rfl, by decide⟩, ⟨rfl, by decide⟩⟩

theorem witness_DecimalFlagIsInert : (Instr.adc (.imm 0x09)).op ∈ ([.adc, .sbc] : List Op) := by decide

/-- `BreakAndInterruptFlagsDecideNothing`, both clauses. -/
theorem witness_BreakAndInterruptFlagsDecideNothing :
    exec .plp (blockOver []) = .next (nextOr (blockOver []) (exec .plp (blockOver []))) ∧
      Instr.plp.op ≠ .php ∧ Instr.plp.op ≠ .brk := ⟨rfl, by decide, by decide⟩

theorem witness_DispatchRomCountsAndKinds :
    ⟨.adc, .imm⟩ ∈ rom ∧ ⟨.inc, .zp⟩ ∈ rom ∧ ⟨.asl, .acc⟩ ∈ rom ∧ ⟨.bne, .rel⟩ ∈ rom ∧ ⟨.brk, .imp⟩ ∈ rom := by decide

/-- `DecodeInvertsEncode`, with bytes after the instruction, at the ends of the operand range. -/
theorem witness_DecodeInvertsEncode :
    wellFormed (.adc (.mem (.aby 0xFFFF))) = true ∧ wellFormed (.dop 0xF4 (.mem (.zpx 0x00))) = true ∧
      wellFormed (.unassigned 0xCB) = true := by decide

theorem witness_EncodeInvertsDecode : decode [0x4C, 0x34, 0x12, 0xEA] = .ok (.jmp (.abs 0x1234), [0xEA]) := rfl

/-- `StepRunsDecodedInstruction`: three bytes that are one instruction, and one byte that is one. -/
theorem witness_StepRunsDecodedInstruction :
    (blockOver [(0x0600, 0x4C), (0x0601, 0x34), (0x0602, 0x12)]).fault = none ∧
      decode [0x4C, 0x34, 0x12] = .ok (.jmp (.abs 0x1234), []) ∧ decode [0xEA, 0x34, 0x12] = .ok (.nop, [0x34, 0x12]) :=
  ⟨rfl, rfl, rfl⟩

theorem witness_FetchWordIsRunNext : decodeTableWord 16 0x42A9 = some (.lda (.imm 0x42)) := by decide

/-- `StepCompletesUnlessUnassigned` and `UnassignedByteFaults`: a block that is not faulted, on an assigned byte and on an
unassigned one. -/
theorem witness_StepCompletesUnlessUnassigned :
    (blockOver [(0x0600, 0xEA)]).fault = none ∧
      busValue 0x0600 (blockOver [(0x0600, 0xEA)]) ∉ unassignedBytes ∧
      busValue 0x0600 (blockOver [(0x0600, 0xCB)]) ∈ unassignedBytes := by decide

/-- `FaultIsFinal`, for both marks, and for a block with unset cells. -/
theorem witness_FaultIsFinal :
    ({ blockOver [] with fault := some (.unassignedOpcode 0x02) } : State).fault = some (.unassignedOpcode 0x02) ∧
      (trackedHostStep (trackedPowerOn [] [])).state.fault = some (.uninitRead .pc) := ⟨rfl, rfl⟩

theorem witness_HaltLoopsForever : atHalt (blockOver [(0x0600, 0x4C), (0x0602, 0x06)]) := by
  unfold atHalt; decide

theorem witness_ResetOperation : (powerOn [(0xFFFD, 0x06)] []).fault = none := rfl

/-- `ResetStateValues`, its clause on the reset operation: a constructed block, and one whose cells are all set. -/
theorem witness_ResetStateValues :
    (trackedPowerOn [(0xFFFD, 0x06)] []).state.fault = none ∧
      (⟨[.a, .x, .y, .sp, .pc, .c, .z, .i, .d, .v, .n], blockOver []⟩ : Tracked).state.fault = none := ⟨rfl, rfl⟩

/-- `ResetHasInvariants`, its clause on a constructed block: a memory with one byte listed. -/
theorem witness_ResetHasInvariants : Memory.wf [(0xFFFF, 0x06)] := by decide

theorem witness_StepKeepsMemoryCanonical :
    let s := { blockOver [(0x0600, 0x85), (0x0601, 0x10)] with a := 0x42 }
    s.memory.wf ∧ step s = .next (nextOr s (step s)) := ⟨by decide, rfl⟩

/-- `StepKeepsBusCoherent`: a block that is just constructed over a NOP at 0x0000. -/
theorem witness_StepKeepsBusCoherent :
    let s := powerOn [(0x0000, 0xEA)] []
    busCoherent (fun a => s.memory.read a.toNat) s ∧ step s = .next (nextOr s (step s)) := by
  refine ⟨⟨fun _ _ => rfl, fun before a w rest h => ?_⟩, rfl⟩
  cases before <;> cases h

/-- `SpecStepFaultsOnUnsetCell`: PC unset; PC set and the cell that INX reads unset, the first of its reads; PC and that cell
set; and a step that goes on. -/
theorem witness_SpecStepFaultsOnUnsetCell :
    let s := blockOver [(0x0600, 0xE8)]
    let reads := (cellReads (fetch s).1 (fetch s).2).map CellRead.cell
    s.fault = none ∧ RegCell.pc ∉ ([] : List RegCell) ∧
      (RegCell.pc ∈ [RegCell.pc] ∧ reads = [] ++ RegCell.x :: [] ∧ RegCell.x ∉ [RegCell.pc]) ∧
      (∀ r ∈ reads, r ∈ [RegCell.pc, .x]) ∧
      trackedStep ⟨[.pc, .x], s⟩ = .next ⟨[.pc, .x, .x, .z, .n], nextOr s (step s)⟩ :=
  ⟨rfl, by decide, ⟨by decide, rfl, by decide⟩, by decide, rfl⟩

/-- `UninitReadKeepsPrecedingEffects`: INX with X unset; SLO with A unset, whose fault comes after the three accesses of its
address. -/
theorem witness_UninitReadKeepsPrecedingEffects :
    let s := blockOver [(0x0600, 0xE8)]
    let t := blockOver [(0x0010, 0x81), (0x0600, 0x07), (0x0601, 0x10)]
    s.fault = none ∧ RegCell.pc ∈ [RegCell.pc] ∧ trackedStep ⟨[.pc], s⟩ = .fault (.uninitRead .x) ∧
      t.fault = none ∧ trackedStep ⟨[.pc], t⟩ = .fault (.uninitRead .a) ∧
      (fetch t).1 = .slo (.zp 0x10) ∧ writesOf ((trackedHostStep ⟨[.pc], t⟩).state.events.drop 2) ≠ [] :=
  ⟨rfl, by decide, rfl, rfl, rfl, rfl, by decide⟩

/-- `UnsetCellsNeverMatter`: two states that differ in A, which is unset, over NOP and PHA; a run of one step goes on, a run
of two faults. -/
theorem witness_UnsetCellsNeverMatter :
    let s := blockOver [(0x0600, 0xEA), (0x0601, 0x48)]
    let t : Tracked := ⟨[.pc, .sp, .i], s⟩
    let u : Tracked := ⟨[.pc, .sp, .i], { s with a := 0x42 }⟩
    (t.set = u.set ∧ agreeOn t.set t.state u.state ∧ t.state.a ≠ u.state.a) ∧
      trackedRun 1 t = .next ⟨[.pc, .sp, .i], nextOr s (step s)⟩ ∧ trackedRun 2 t = .fault (.uninitRead .a) := by
  refine ⟨⟨rfl, ⟨?_, rfl, rfl, rfl, rfl, rfl, rfl⟩, by decide⟩, rfl, rfl⟩
  intro r hr
  cases r <;> first | rfl | exact absurd hr (by decide)

end Sys2Proof.Tests
end

section
/-! The status byte P and its copies on the stack (10_state.md R17, R35 to R37): what the four instructions that push or pull
it answer, its value as a number, and its bit 5. -/

namespace Sys2Proof.Machine

theorem exec_php (s : State) : exec .php s = .next (push (pushedStatus s) s) := rfl

theorem exec_plp (s : State) : exec .plp s = .next (writeStatus (pop s).1 (pop s).2) := rfl

theorem exec_brk (s : State) : exec .brk s = .next (takeBreak s) := rfl

theorem exec_rti (s : State) : exec .rti s = .next (returnFromBreak s) := rfl

theorem byte_toNat_eq_bits (p : Byte) :
    p.toNat = 128 * (p.getLsbD 7).toNat + 64 * (p.getLsbD 6).toNat + 32 * (p.getLsbD 5).toNat + 16 * (p.getLsbD 4).toNat +
      8 * (p.getLsbD 3).toNat + 4 * (p.getLsbD 2).toNat + 2 * (p.getLsbD 1).toNat + (p.getLsbD 0).toNat := by
  revert p; decide

/-- R35, R36: each flag counts at its place, and bit 5 always counts 32. -/
theorem statusWith_toNat (bit4 : Bool) (s : State) :
    (statusWith bit4 s).toNat = 128 * s.n.toNat + 64 * s.v.toNat + 32 + 16 * bit4.toNat + 8 * s.d.toNat + 4 * s.i.toNat +
      2 * s.z.toNat + s.c.toNat := by
  obtain ⟨hc, hz, hi, hd, hb, h5, hv, hn⟩ := statusWith_bits bit4 s
  rw [byte_toNat_eq_bits, hc, hz, hi, hd, hb, h5, hv, hn]
  rfl

/-- R17, for the status byte and for the pushed one at once: they differ in bit 4 alone. -/
theorem statusWith_bit5 (bit4 : Bool) (s : State) : (statusWith bit4 s).getLsbD 5 = true := by
  obtain ⟨-, -, -, -, -, h5, -, -⟩ := statusWith_bits bit4 s
  exact h5

/-- BRK writes the status byte after the two bytes of PC and before the two reads of the vector (R147). -/
theorem takeBreak_events_around_status (s : State) :
    ∃ before after : List BusEvent, before.length = 2 ∧ after.length = 2 ∧
      (takeBreak s).events = s.events ++ before ++ [.write (stackAddr (s.sp - 2)) (pushedStatus s)] ++ after := by
  obtain ⟨lo, hi, hevents⟩ : ∃ lo hi, (takeBreak s).events = s.events ++
      ([.write (stackAddr s.sp) (hi8 s.pc), .write (stackAddr (s.sp - 1)) (lo8 s.pc)] ++
        [.write (stackAddr (s.sp - 2)) (pushedStatus s)]) ++
      [.read Config.irqBrkVector lo, .read (Config.irqBrkVector + 1) hi] := ⟨_, _, takeBreak_events s⟩
  rw [← List.append_assoc s.events] at hevents
  exact ⟨[_, _], [_, _], rfl, rfl, hevents⟩

/-- Settles O24: every status byte of the block is assembled by `statusWith`, whose bit 5 is 1 whatever the flags are. -/
theorem statusBit5AlwaysOne : Obligations.StatusBit5AlwaysOne := by
  intro s
  obtain ⟨before, after, hbefore, hafter, hevents⟩ := takeBreak_events_around_status s
  refine ⟨statusWith_bit5 _ s, statusWith_toNat _ s, ?php, ?brk, ?pulled⟩
  case php => exact ⟨_, _, exec_php s, push_events _ s, statusWith_bit5 true s⟩
  case brk => exact ⟨_, _, before, after, exec_brk s, hbefore, hafter, hevents, statusWith_bit5 true s⟩
  case pulled =>
    exact List.forall_mem_cons.mpr
      ⟨⟨_, exec_plp s, statusWith_bit5 _ _⟩, List.forall_mem_singleton.mpr ⟨_, exec_rti s, statusWith_bit5 _ _⟩⟩

end Sys2Proof.Machine
end

section
/-! The status byte that PHP and BRK push (10_state.md R36) and the status write of PLP and RTI (R37). -/

namespace Sys2Proof.Machine

/-- Settles O22: PHP and BRK push one and the same `pushedStatus s`, whose bits `statusWith_bits` gives with 1 for bit 4. -/
theorem pushedStatusByte : Obligations.PushedStatusByte := by
  intro s
  obtain ⟨before, after, hbefore, hafter, hevents⟩ := takeBreak_events_around_status s
  obtain ⟨hc, hz, hi, hd, hb, h5, hv, hn⟩ := statusWith_bits true s
  exact ⟨pushedStatus s, _, _, before, after, exec_php s, push_events _ s, exec_brk s, hevents, hbefore, hafter,
    hn, hv, h5, hb, hd, hi, hz, hc⟩

/-- R37, `P <- (b & 0xEF) | 0x20`: the masks change bit 4 and bit 5 alone, and every other bit is the flag just written. -/
theorem statusByte_writeStatus (p : Byte) (s : State) : statusByte (writeStatus p s) = (p &&& 0xEF) ||| 0x20 := by
  obtain ⟨hc, hz, hi, hd, hb, h5, hv, hn⟩ := statusWith_bits false (writeStatus p s)
  change statusWith false (writeStatus p s) = _
  refine BitVec.eq_of_getLsbD_eq fun k hk => ?_
  rw [BitVec.getLsbD_or, BitVec.getLsbD_and]
  interval_cases k <;> simp [hc, hz, hi, hd, hb, h5, hv, hn, -BitVec.getLsbD_eq_getElem]

/-- What RTI pulls after the status changes no flag, so writing the status once more changes nothing. -/
theorem writeStatus_returnFromBreak (s : State) :
    writeStatus (busValue (stackAddr (s.sp + 1)) s) (returnFromBreak s) = returnFromBreak s := by
  simp [returnFromBreak, pop16_eq, pop_eq, writeStatus]

/-- Settles O23: PLP and RTI each end in a state that the status write of the byte pulled gives, and it sets every flag. -/
theorem pulledStatusByte : Obligations.PulledStatusByte := by
  intro s i hi b
  obtain ⟨⟨t, hexec⟩, hsets⟩ :
      (∃ t, exec i s = .next (writeStatus b t)) ∧ cellSets i = [.c, .z, .i, .d, .v, .n] := by
    rcases List.mem_pair.mp hi with rfl | rfl
    · exact ⟨⟨(pop s).2, exec_plp s⟩, rfl⟩
    · exact ⟨⟨returnFromBreak s, (exec_rti s).trans (congrArg _ (writeStatus_returnFromBreak s).symm)⟩, rfl⟩
  exact ⟨⟨_, hexec, rfl, rfl, rfl, rfl, rfl, rfl, rfl, statusByte_writeStatus b t⟩, fun _ hr => hsets ▸ hr⟩

end Sys2Proof.Machine
end

section
/-! What an arithmetic or logic instruction does to the state, written out in numbers (41_arith_logic.md R100 to R106), and the
registers that its operand's resolution leaves for it (30_encoding.md R73). -/

namespace Sys2Proof.Machine

@[simp] theorem resolveValue_a (o : Value) (s : State) : (resolveValue o s).2.a = s.a := by rw [resolveValue_snd, record_a]
@[simp] theorem resolveValue_x (o : Value) (s : State) : (resolveValue o s).2.x = s.x := by rw [resolveValue_snd, record_x]
@[simp] theorem resolveValue_y (o : Value) (s : State) : (resolveValue o s).2.y = s.y := by rw [resolveValue_snd, record_y]
@[simp] theorem resolveValue_c (o : Value) (s : State) : (resolveValue o s).2.c = s.c := by rw [resolveValue_snd, record_c]

theorem byte_beq_zero (r : Byte) : (r == 0) = decide (r.toNat = 0) := by
  rw [beq_eq_decide]
  exact decide_eq_decide.mpr BitVec.toNat_inj.symm

theorem byte_bit7 (r : Byte) : r.getLsbD 7 = decide (r.toNat ≥ 128) := BitVec.msb_eq_decide r

/-- R101, as one update of the state. -/
theorem updateAZN_eq (r : Byte) (s : State) :
    updateAZN r s = { s with a := r, z := decide (r.toNat = 0), n := decide (r.toNat ≥ 128) } := by
  rw [← byte_beq_zero, ← byte_bit7]
  rfl

/-- R106, as one update of the state: the wrapping difference is 0 exactly when the bytes are equal. -/
theorem compareBytes_eq (p q : Byte) (s : State) :
    compareBytes p q s = { s with
      c := decide (q.toNat ≤ p.toNat)
      z := decide (p = q)
      n := decide ((p.toNat + 256 - q.toNat) % 256 ≥ 128) } := by
  have hz : (p - q == 0) = decide (p = q) := by
    rw [beq_eq_decide]
    exact decide_eq_decide.mpr sub_eq_zero
  have hn : (p - q).getLsbD 7 = decide ((p.toNat + 256 - q.toNat) % 256 ≥ 128) := by
    rw [byte_bit7, BitVec.toNat_sub, Nat.add_comm p.toNat, Nat.sub_add_comm q.isLt.le]
  rw [← hz, ← hn]
  rfl

theorem exec_adc (o : Value) (s : State) :
    exec (.adc o) s = .next (adcByte (resolveValue o s).1 (resolveValue o s).2) := rfl

theorem exec_sbc (o : Value) (s : State) :
    exec (.sbc o) s = .next (sbcByte (resolveValue o s).1 (resolveValue o s).2) := rfl

@[simp] theorem adcByte_a (value : Byte) (s : State) : (adcByte value s).a = (adc8 s.a value s.c).r := rfl

@[simp] theorem sbcByte_a (value : Byte) (s : State) : (sbcByte value s).a = (sbc8 s.a value s.c).r := rfl

/-- R107, as one update of the state. -/
theorem adcByte_eq (value : Byte) (s : State) :
    adcByte value s = { s with
      a := (adc8 s.a value s.c).r
      c := decide (s.a.toNat + value.toNat + s.c.toNat > 255)
      v := (s.a.getLsbD 7 == value.getLsbD 7) && (s.a.getLsbD 7 != (adc8 s.a value s.c).r.getLsbD 7)
      z := decide ((adc8 s.a value s.c).r.toNat = 0)
      n := decide ((adc8 s.a value s.c).r.toNat ≥ 128) } := by
  rw [adcByte, updateAZN_eq, adc8_cout, adc8_vout]

/-- Settles O1: the adder's three outputs are the ones stated, on the A and C that resolving the operand leaves alone. -/
theorem adcAddsWithCarry : Obligations.AdcAddsWithCarry := by
  intro o s value sum
  refine ⟨(adc8 s.a value s.c).r, adc8_r_toNat _ _ _, ?_⟩
  rw [exec_adc, adcByte_eq, resolveValue_a, resolveValue_c]

/-- R131: the byte and the carry that the adder adds are the byte and the borrow that the subtractor takes off again. -/
theorem sbc8_adc8_not_carry (a b : Byte) (cin : Bool) : (sbc8 (adc8 a b cin).r b (!cin)).r = a := by
  apply BitVec.eq_of_toNat_eq
  have hsum := adc8_r_toNat a b cin
  have hdiff := sbc8_r_toNat (adc8 a b cin).r b (!cin)
  have hborrow : cin.toNat + (!cin).toNat = 1 := by cases cin <;> rfl
  omega

/-- Settles O4: with the complemented carry-in the subtractor undoes the adder, `sbc8_adc8_not_carry`. -/
theorem adcThenSbcRestoresA : Obligations.AdcThenSbcRestoresA := fun b s =>
  ⟨_, _, exec_adc (.imm b) s, exec_sbc (.imm b) _, sbc8_adc8_not_carry s.a b s.c⟩

end Sys2Proof.Machine
end

section
/-! The logic instructions, the accumulator shifts and the comparisons (41_arith_logic.md R104 to R106): each is one shared
update of the state, with the unit's result written out. -/

namespace Sys2Proof.Machine

/-- R109 to R111: each logic instruction writes its unit's result over the A that resolving the operand leaves alone. -/
theorem exec_logic (o : Value) (s : State) :
    exec (.and o) s = .next (updateAZN (and8 s.a (resolveValue o s).1) (resolveValue o s).2) ∧
    exec (.ora o) s = .next (updateAZN (or8 s.a (resolveValue o s).1) (resolveValue o s).2) ∧
    exec (.eor o) s = .next (updateAZN (xor8 s.a (resolveValue o s).1) (resolveValue o s).2) := by
  rw [← resolveValue_a o s]
  exact ⟨rfl, rfl, rfl⟩

/-- Settles O5: each bit of the logic unit's result is the Boolean operation on the two bits. -/
theorem logicInstructionsActBitwise : Obligations.LogicInstructionsActBitwise := by
  intro o s value p hp
  obtain ⟨hand, hora, heor⟩ := exec_logic o s
  obtain ⟨r, hbits, hexec⟩ : ∃ r : Byte, (∀ k, r.getLsbD k = p.2 (s.a.getLsbD k) (value.getLsbD k)) ∧
      exec p.1 s = .next (updateAZN r (resolveValue o s).2) := by
    simp only [List.mem_cons, List.not_mem_nil, or_false] at hp
    rcases hp with rfl | rfl | rfl
    · exact ⟨and8 s.a value, fun _ => BitVec.getLsbD_and, hand⟩
    · exact ⟨or8 s.a value, fun _ => BitVec.getLsbD_or, hora⟩
    · exact ⟨xor8 s.a value, fun _ => BitVec.getLsbD_xor, heor⟩
  exact ⟨r, fun k _ => hbits k, hexec.trans (congrArg _ (updateAZN_eq r _))⟩

/-- R112, R114, R116, R118: which shifter and which fill bit each accumulator form applies. -/
theorem exec_shift_acc (s : State) :
    exec (.asl .acc) s = .next (shiftAcc (fun v => shl v false) s) ∧
    exec (.lsr .acc) s = .next (shiftAcc (fun v => shr v false) s) ∧
    exec (.rol .acc) s = .next (shiftAcc (fun v => shl v s.c) s) ∧
    exec (.ror .acc) s = .next (shiftAcc (fun v => shr v s.c) s) :=
  ⟨rfl, rfl, rfl, rfl⟩

theorem shiftAcc_eq (f : Byte → ShiftResult) (s : State) :
    shiftAcc f s = { s with
      a := (f s.a).r, c := (f s.a).cout, z := decide ((f s.a).r.toNat = 0), n := decide ((f s.a).r.toNat ≥ 128) } := by
  rw [shiftAcc, updateAZN_eq]

/-- Settles O6: each form shifts A with its fill bit, and the shifter's carry is a bit of A before the shift. -/
theorem accumulatorShifts : Obligations.AccumulatorShifts := by
  intro s p hp
  obtain ⟨hasl, hlsr, hrol, hror⟩ := exec_shift_acc s
  obtain ⟨f, hexec, hr, hc⟩ : ∃ f : Byte → ShiftResult, exec p.1 s = .next (shiftAcc f s) ∧
      (f s.a).r.toNat = p.2.1 ∧ (f s.a).cout = p.2.2 := by
    simp only [List.mem_cons, List.not_mem_nil, or_false] at hp
    rcases hp with rfl | rfl | rfl | rfl
    · exact ⟨_, hasl, shl_r_toNat s.a false, rfl⟩
    · exact ⟨_, hlsr, shr_r_toNat s.a false, rfl⟩
    · exact ⟨_, hrol, shl_r_toNat s.a s.c, rfl⟩
    · exact ⟨_, hror, shr_r_toNat s.a s.c, rfl⟩
  exact ⟨(f s.a).r, hr, by rw [hexec, shiftAcc_eq, hc]⟩

/-- R120 to R122: each comparison is of its register, which resolving the operand leaves alone. -/
theorem exec_compare (o : Value) (s : State) :
    exec (.cmp o) s = .next (compareBytes s.a (resolveValue o s).1 (resolveValue o s).2) ∧
    exec (.cpx o) s = .next (compareBytes s.x (resolveValue o s).1 (resolveValue o s).2) ∧
    exec (.cpy o) s = .next (compareBytes s.y (resolveValue o s).1 (resolveValue o s).2) := by
  rw [← resolveValue_a o s, ← resolveValue_x o s, ← resolveValue_y o s]
  exact ⟨rfl, rfl, rfl⟩

/-- Settles O8: the three comparisons are one comparator, `compareBytes_eq`, on three registers. -/
theorem comparesSetCarryZeroNegative : Obligations.ComparesSetCarryZeroNegative := by
  intro o s value p hp
  obtain ⟨hcmp, hcpx, hcpy⟩ := exec_compare o s
  have hexec : exec p.1 s = .next (compareBytes p.2 value (resolveValue o s).2) := by
    simp only [List.mem_cons, List.not_mem_nil, or_false] at hp
    rcases hp with rfl | rfl | rfl
    · exact hcmp
    · exact hcpx
    · exact hcpy
  rw [hexec, compareBytes_eq]

end Sys2Proof.Machine
end

section
/-! D decides nothing in 41_arith_logic.md (R132): setting D commutes with resolving an operand, and then with each
instruction's own update of the state. -/

namespace Sys2Proof.Machine

/-- The state with another D. -/
def setD (d : Bool) (s : State) : State := { s with d := d }

theorem effAddr_setD (m : Mem) (d : Bool) (s : State) :
    effAddr m (setD d s) = ((effAddr m s).1, setD d (effAddr m s).2) := by
  cases m <;> rfl

theorem resolveValue_setD (o : Value) (d : Bool) (s : State) :
    resolveValue o (setD d s) = ((resolveValue o s).1, setD d (resolveValue o s).2) := by
  cases o with
  | imm b => rfl
  | mem m => rw [resolveValue, effAddr_setD]; rfl

/-- What R132 says of one instruction and one state. -/
def DInert (i : Instr) (d : Bool) (s : State) : Prop :=
  ∃ t, exec i s = .next t ∧ exec i (setD d s) = .next (setD d t)

/-- An instruction that resolves a VALUE operand and then updates the state by a function that D commutes with. -/
theorem dInert_of_value {i : Instr} {o : Value} {f : Byte → State → State} (d : Bool) (s : State)
    (hexec : ∀ s, exec i s = .next (f (resolveValue o s).1 (resolveValue o s).2))
    (hf : ∀ b t, f b (setD d t) = setD d (f b t)) : DInert i d s :=
  ⟨_, hexec s, by rw [hexec, resolveValue_setD, hf]⟩

/-- The same for an instruction that resolves an effective address. -/
theorem dInert_of_mem {i : Instr} {m : Mem} {f : Word → State → State} (d : Bool) (s : State)
    (hexec : ∀ s, exec i s = .next (f (effAddr m s).1 (effAddr m s).2))
    (hf : ∀ ea t, f ea (setD d t) = setD d (f ea t)) : DInert i d s :=
  ⟨_, hexec s, by rw [hexec, effAddr_setD, hf]⟩

/-- What BIT does with the byte that it reads (R123). -/
def bitByte (value : Byte) (s : State) : State :=
  { s with z := (s.a &&& value) == 0, v := value.getLsbD 6, n := value.getLsbD 7 }

theorem exec_bit (m : Mem) (s : State) :
    exec (.bit m) s = .next (bitByte (resolveValue (.mem m) s).1 (resolveValue (.mem m) s).2) := rfl

/-- R132: every instruction of 41_arith_logic.md runs the same with another D, by the kind of its operand. -/
theorem dInert_of_arithLogic (i : Instr) (d : Bool) (s : State)
    (hi : i.op ∈ ([.adc, .sbc, .and, .ora, .eor, .asl, .lsr, .rol, .ror, .cmp, .cpx, .cpy, .bit, .inc, .dec, .inx, .iny, .dex,
      .dey] : List Op)) : DInert i d s := by
  cases i
  case adc o | sbc o | and o | ora o | eor o | cmp o => exact dInert_of_value d s (fun _ => rfl) fun _ _ => rfl
  case cpx o => exact dInert_of_value (f := fun b t => compareBytes t.x b t) d s (fun _ => rfl) fun _ _ => rfl
  case cpy o => exact dInert_of_value (f := fun b t => compareBytes t.y b t) d s (fun _ => rfl) fun _ _ => rfl
  case bit m => exact dInert_of_value d s (exec_bit m) fun _ _ => rfl
  case asl o | lsr o | rol o | ror o =>
    cases o with
    | acc => exact ⟨_, rfl, rfl⟩
    | mem m => exact dInert_of_mem d s (fun _ => rfl) fun _ _ => rfl
  case inc m | dec m => exact dInert_of_mem d s (fun _ => rfl) fun _ _ => rfl
  case inx | iny | dex | dey => exact ⟨_, rfl, rfl⟩
  all_goals simp [Instr.op] at hi

/-- Settles O41: D commutes with every instruction of the file, and the A that ADC and SBC write is the binary sum and
difference of values that do not depend on D. -/
theorem decimalFlagIsInert : Obligations.DecimalFlagIsInert := by
  intro i s d
  refine ⟨dInert_of_arithLogic i d s, fun o => ⟨_, _, exec_adc o (setD d s), exec_sbc o (setD d s), ?sum, ?difference⟩⟩
  case sum => rw [adcByte_a, adc8_r_toNat, resolveValue_a, resolveValue_c, resolveValue_setD]; rfl
  case difference => rw [sbcByte_a, sbc8_r_toNat, resolveValue_a, resolveValue_c, resolveValue_setD]; rfl

end Sys2Proof.Machine
end

section
/-! The conditional branches (42_control_stack.md R135 to R143): all eight are one operation, `branchIf`, on the flag that the
rule of each one names. -/

namespace Sys2Proof.Machine

@[simp] theorem branchIf_false (offset : Byte) (s : State) : branchIf false offset s = s := rfl

@[simp] theorem branchIf_true (offset : Byte) (s : State) : branchIf true offset s = branch offset s := rfl

/-- R136 to R143: which flag, or its complement, each branch tests. -/
theorem exec_branch (offset : Byte) (s : State) :
    exec (.bcc offset) s = .next (branchIf (!s.c) offset s) ∧ exec (.bcs offset) s = .next (branchIf s.c offset s) ∧
    exec (.beq offset) s = .next (branchIf s.z offset s) ∧ exec (.bne offset) s = .next (branchIf (!s.z) offset s) ∧
    exec (.bmi offset) s = .next (branchIf s.n offset s) ∧ exec (.bpl offset) s = .next (branchIf (!s.n) offset s) ∧
    exec (.bvc offset) s = .next (branchIf (!s.v) offset s) ∧ exec (.bvs offset) s = .next (branchIf s.v offset s) :=
  ⟨rfl, rfl, rfl, rfl, rfl, rfl, rfl, rfl⟩

/-- R135: the target is the signed sum, modulo 2^16. -/
theorem add_sext16_toNat (pc : Word) (offset : Byte) :
    ((pc + sext16 offset).toNat : Int) =
      ((pc.toNat : Int) + (if offset.toNat ≥ 128 then (offset.toNat : Int) - 256 else offset.toNat)) % 65536 := by
  rw [BitVec.toNat_add, sext16_toNat]
  split <;> omega

theorem pageOf_eq_iff (a b : Word) : pageOf a = pageOf b ↔ a.toNat / 256 = b.toNat / 256 := by
  rw [← BitVec.toNat_inj, pageOf, pageOf, hi8_toNat, hi8_toNat]

/-- R135, with pages as numbers. -/
theorem branch_eq (offset : Byte) (s : State) :
    branch offset s = { s with
      pc := s.pc + sext16 offset
      cycles := s.cycles + (if (s.pc + sext16 offset).toNat / 256 ≠ s.pc.toNat / 256 then 2 else 1) } := by
  simp only [branch, bne_iff_ne, ne_eq, pageOf_eq_iff]

/-- Settles O12: every branch is `branchIf` on its own predicate, and the taken one is `branch_eq`. -/
theorem branchesTakenAndNotTaken : Obligations.BranchesTakenAndNotTaken := by
  intro offset s p hp
  obtain ⟨hbcc, hbcs, hbeq, hbne, hbmi, hbpl, hbvc, hbvs⟩ := exec_branch offset s
  have hexec : exec p.1 s = .next (branchIf p.2 offset s) := by
    simp only [List.mem_cons, List.not_mem_nil, or_false] at hp
    rcases hp with rfl | rfl | rfl | rfl | rfl | rfl | rfl | rfl
    · exact hbcc
    · exact hbcs
    · exact hbeq
    · exact hbne
    · exact hbmi
    · exact hbpl
    · exact hbvc
    · exact hbvs
  refine ⟨fun hnot => ?notTaken, fun htaken => ⟨s.pc + sext16 offset, add_sext16_toNat s.pc offset, ?taken⟩⟩
  case notTaken => rw [hexec, hnot, branchIf_false]
  case taken => rw [hexec, htaken, branchIf_true, branch_eq]

end Sys2Proof.Machine
end

section
/-! What one instruction pushes, another pulls (42_control_stack.md R153): from stack addresses outside the I/O region a pull gets
the byte or the word that a push left there. -/

namespace Sys2Proof.Machine

/-! ### The byte and the word on the stack -/

/-- The word whose high byte the stack holds at `p` and whose low byte it holds just below, where `push16` from SP = `p` puts
them (R57). -/
def stackWord (p : Byte) (m : Memory) : Word :=
  ofHiLo (m.read (stackAddr p).toNat) (m.read (stackAddr (p - 1)).toNat)

theorem stackWord_congr {p : Byte} {m k : Memory} (hhi : m.read (stackAddr p).toNat = k.read (stackAddr p).toNat)
    (hlo : m.read (stackAddr (p - 1)).toNat = k.read (stackAddr (p - 1)).toNat) : stackWord p m = stackWord p k := by
  rw [stackWord, hhi, hlo, stackWord]

/-- R55: the byte just pushed stands at the stack address from before the push. -/
theorem push_read_same (w : Byte) (s : State) (hio : isIo s.ioRegion (stackAddr s.sp) = false) :
    (push w s).memory.read (stackAddr s.sp).toNat = w := by
  rw [push_read, if_pos ⟨hio, rfl⟩]

theorem push_read_other (w : Byte) (s : State) {p : Byte} (hp : p ≠ s.sp) :
    (push w s).memory.read (stackAddr p).toNat = s.memory.read (stackAddr p).toNat := by
  rw [push_read, if_neg fun h => hp ((stackAddr_inj p s.sp).mp (BitVec.eq_of_toNat_eq h.2))]

theorem byte_ne_sub_one (p : Byte) : p ≠ p - 1 := by bv_omega
theorem byte_ne_sub_two (p : Byte) : p ≠ p - 2 := by bv_omega
theorem byte_sub_one_ne_sub_two (p : Byte) : p - 1 ≠ p - 2 := by bv_omega

/-- R57: `push16` leaves its word on the stack. -/
theorem stackWord_push16 (w : Word) (s : State) (hhi : isIo s.ioRegion (stackAddr s.sp) = false)
    (hlo : isIo s.ioRegion (stackAddr (s.sp - 1)) = false) : stackWord s.sp (push16 w s).memory = w := by
  have hreadHi : (push16 w s).memory.read (stackAddr s.sp).toNat = hi8 w :=
    (push_read_other _ _ (byte_ne_sub_one s.sp)).trans (push_read_same _ s hhi)
  have hreadLo : (push16 w s).memory.read (stackAddr (s.sp - 1)).toNat = lo8 w := push_read_same _ (push _ s) hlo
  rw [stackWord, hreadHi, hreadLo, ofHiLo_hi8_lo8]

/-- R56: `pop` gets the byte that the stack holds above SP. -/
theorem pop_of_ram {s : State} {p : Byte} (hsp : s.sp = p - 1) (hio : isIo s.ioRegion (stackAddr p) = false) :
    ∃ es, pop s = (s.memory.read (stackAddr p).toNat, { s with sp := p, events := es }) := by
  have h1 : s.sp + 1 = p := by rw [hsp, sub_add_cancel]
  rw [pop_eq, h1, busValue_ram _ _ hio]
  exact ⟨_, rfl⟩

/-- R58: `pop16` gets the word that the stack holds above SP. -/
theorem pop16_of_ram {s : State} {p : Byte} (hsp : s.sp = p - 2) (hhi : isIo s.ioRegion (stackAddr p) = false)
    (hlo : isIo s.ioRegion (stackAddr (p - 1)) = false) :
    ∃ es, pop16 s = (stackWord p s.memory, { s with sp := p, events := es }) := by
  have h1 : s.sp + 1 = p - 1 := by rw [hsp, ← sub_one_one, sub_add_cancel]
  have h2 : s.sp + 2 = p := by rw [hsp, sub_add_cancel]
  rw [pop16_eq, h1, h2, busValue_ram _ _ hlo, busValue_ram _ (record _ s) hhi]
  exact ⟨_, rfl⟩

/-! ### JSR and RTS -/

theorem exec_jsr (target : Word) (s : State) :
    exec (.jsr target) s = .next { push16 (s.pc - 1) s with pc := target } := rfl

theorem exec_rts (s : State) : exec .rts s = .next { (pop16 s).2 with pc := (pop16 s).1 + 1 } := rfl

/-- Settles O16: the stack still holds the word JSR pushed, PC - 1, and RTS adds the 1 again. -/
theorem jsrThenRtsReturns : Obligations.JsrThenRtsReturns := by
  intro target s t u hjsr hhi hlo hsp hregion hkeptHi hkeptLo
  obtain rfl := Host.Outcome.next.inj ((exec_jsr target s).symm.trans hjsr)
  dsimp only at hsp hregion hkeptHi hkeptLo
  rw [push16_sp] at hsp
  rw [push16_ioRegion] at hregion
  have hword : stackWord s.sp u.memory = s.pc - 1 :=
    (stackWord_congr hkeptHi hkeptLo).trans (stackWord_push16 (s.pc - 1) s hhi hlo)
  obtain ⟨es, hpop⟩ := pop16_of_ram hsp (hregion ▸ hhi) (hregion ▸ hlo)
  exact ⟨_, exec_rts u, by rw [hpop, hword, sub_add_cancel], by rw [hpop]⟩

/-! ### PHP and PLP -/

/-- R36, R37: writing the pushed status byte back gives the flags it was assembled from, and clears B. -/
theorem writeStatus_pushedStatus (s t : State) :
    writeStatus (pushedStatus s) t =
      { t with c := s.c, z := s.z, i := s.i, d := s.d, b := false, v := s.v, n := s.n } := by
  obtain ⟨hc, hz, hi, hd, -, -, hv, hn⟩ := statusWith_bits true s
  rw [writeStatus, pushedStatus, hc, hz, hi, hd, hv, hn]

/-- Settles O25: PLP pulls the very byte PHP pushed, and what it writes back is `writeStatus_pushedStatus`. -/
theorem phpThenPlpRoundTrip : Obligations.PhpThenPlpRoundTrip := by
  intro s hio
  obtain ⟨es, hpop⟩ := pop_of_ram (push_sp (pushedStatus s) s) hio
  rw [push_read_same _ s hio] at hpop
  refine ⟨_, _, exec_php s, exec_plp _, rfl, fun f hf => ?_⟩
  rw [hpop, writeStatus_pushedStatus]
  cases f with
  | b => exact absurd (List.mem_singleton.mpr rfl) hf
  | _ => rfl

/-! ### BRK and RTI -/

/-- R147: BRK leaves PC on the stack and the status byte below it. -/
theorem takeBreak_stack (s : State) (hhi : isIo s.ioRegion (stackAddr s.sp) = false)
    (hlo : isIo s.ioRegion (stackAddr (s.sp - 1)) = false) (hstatus : isIo s.ioRegion (stackAddr (s.sp - 2)) = false) :
    stackWord s.sp (takeBreak s).memory = s.pc ∧
      (takeBreak s).memory.read (stackAddr (s.sp - 2)).toNat = pushedStatus s := by
  have hsp : (push16 s.pc s).sp = s.sp - 2 := push16_sp s.pc s
  rw [takeBreak_memory]
  constructor
  case left =>
    have hkept : stackWord s.sp (push (pushedStatus s) (push16 s.pc s)).memory = stackWord s.sp (push16 s.pc s).memory :=
      stackWord_congr (push_read_other _ _ (hsp ▸ byte_ne_sub_two s.sp))
        (push_read_other _ _ (hsp ▸ byte_sub_one_ne_sub_two s.sp))
    exact hkept.trans (stackWord_push16 s.pc s hhi hlo)
  case right =>
    rw [← push16_ioRegion s.pc s] at hstatus
    rw [← hsp] at hstatus ⊢
    exact push_read_same _ _ hstatus

/-- R148: RTI takes the flags and PC from the three bytes that the stack holds above SP. -/
theorem returnFromBreak_of_ram {s : State} {p : Byte} (hsp : s.sp = p - 3) (hhi : isIo s.ioRegion (stackAddr p) = false)
    (hlo : isIo s.ioRegion (stackAddr (p - 1)) = false) (hstatus : isIo s.ioRegion (stackAddr (p - 2)) = false) :
    ∃ es, returnFromBreak s = writeStatus (s.memory.read (stackAddr (p - 2)).toNat)
      { s with pc := stackWord p s.memory, sp := p, events := es } := by
  obtain ⟨es, hpop⟩ := pop_of_ram (hsp.trans (sub_two_one p).symm) hstatus
  obtain ⟨es', hpop16⟩ := pop16_of_ram (s := writeStatus (pop s).1 (pop s).2) (p := p) (by rw [hpop]; rfl)
    (by rw [hpop]; exact hhi) (by rw [hpop]; exact hlo)
  refine ⟨es', ?_⟩
  rw [returnFromBreak, hpop16, hpop]
  rfl

/-- Settles O19: the stack still holds the PC and the status byte BRK pushed, and RTI takes them back; the byte was formed
before BRK set B, and I where it does. -/
theorem brkThenRtiResumes : Obligations.BrkThenRtiResumes := by
  intro s t u hbrk hsp hregion hkept
  obtain rfl := Host.Outcome.next.inj ((exec_brk s).symm.trans hbrk)
  obtain ⟨hspBrk, -, -⟩ := takeBreak_written s
  obtain ⟨-, -, -, -, -, -, -, -, -, -, hregionBrk⟩ := takeBreak_frame s
  replace hregion := hregion.trans hregionBrk
  obtain ⟨hhi, hkeptHi⟩ := hkept 0 (by decide)
  obtain ⟨hlo, hkeptLo⟩ := hkept 1 (by decide)
  obtain ⟨hstatus, hkeptStatus⟩ := hkept 2 (by decide)
  rw [sub_zero] at hhi hkeptHi
  obtain ⟨hword, hbyte⟩ := takeBreak_stack s hhi hlo hstatus
  obtain ⟨es, hrti⟩ := returnFromBreak_of_ram (hsp.trans hspBrk) (hregion ▸ hhi) (hregion ▸ hlo) (hregion ▸ hstatus)
  rw [stackWord_congr hkeptHi hkeptLo, hword, hkeptStatus, hbyte, writeStatus_pushedStatus] at hrti
  exact ⟨_, (exec_rti u).trans (congrArg _ hrti), rfl, rfl, rfl, rfl, rfl, rfl, rfl, rfl, rfl⟩

end Sys2Proof.Machine
end

section
/-! The six compositions (44_undocumented.md R185 to R191): each is `compose` of the updates that its two documented instructions
are, and `compose` adds one read of the address between them. -/

namespace Sys2Proof.Machine

/-- A read-modify-write of an address, seen from the bus: one read of it, then one write of it, in no extra cycle (R113, R124). -/
def ReadsThenWrites (ea : Word) (s t : State) : Prop :=
  (∃ w, t.events = s.events ++ [.read ea (busValue ea s), .write ea w]) ∧ t.cycles = s.cycles

theorem shiftMem_readsThenWrites (f : Byte → ShiftResult) (ea : Word) (s : State) :
    ReadsThenWrites ea s (shiftMem f ea s) :=
  ⟨⟨_, List.append_assoc s.events _ _⟩, rfl⟩

theorem incMem_readsThenWrites (ea : Word) (s : State) : ReadsThenWrites ea s (incMem ea s) :=
  ⟨⟨_, List.append_assoc s.events _ _⟩, rfl⟩

theorem decMem_readsThenWrites (ea : Word) (s : State) : ReadsThenWrites ea s (decMem ea s) :=
  ⟨⟨_, List.append_assoc s.events _ _⟩, rfl⟩

/-- The bus events and the cycles of a composition (R185), from those of its first primitive; its second one, which has its
byte already, adds none. -/
theorem compose_readWriteRead {first : Word → State → State} {second : Byte → State → State} (m : Mem) (s : State)
    (hfirst : ∀ a t, ReadsThenWrites a t (first a t))
    (hsecond : ∀ b t, (second b t).events = t.events ∧ (second b t).cycles = t.cycles) :
    let ea := (effAddr m s).1
    ∃ w, (compose first second m s).events = (effAddr m s).2.events ++
          [.read ea (busValue ea (effAddr m s).2), .write ea w, .read ea (busValue ea (first ea (effAddr m s).2))] ∧
        (compose first second m s).cycles = s.cycles := by
  intro ea
  obtain ⟨⟨w, hevents⟩, hcycles⟩ := hfirst ea (effAddr m s).2
  have hresolve : (effAddr m s).2.cycles = s.cycles := by rw [effAddr_snd, record_cycles]
  refine ⟨w, ?events, ?cycles⟩
  case events => simp [compose, hsecond, hevents, ea]
  case cycles => simp [compose, hsecond, hcycles, hresolve, ea]

/-- R190: DCP may as well decrement by DEC itself, because CMP writes the Z and N that DEC would leave. -/
theorem exec_dcp_eq_compose_decMem (m : Mem) (s : State) : exec (.dcp m) s = .next (compose decMem cmpByte m s) := rfl

/-- Settles O32: each row's three instructions are `compose f g`, `f` and `g` for one pair of updates, and the bus is
`compose_readWriteRead`. -/
theorem compositionsAreTheirPrimitives : Obligations.CompositionsAreTheirPrimitives := by
  intro m s ea p hp
  obtain ⟨f, g, hwhole, hfirst, hsecond, hf, hg⟩ : ∃ (f : Word → State → State) (g : Byte → State → State),
      exec p.1 s = .next (compose f g m s) ∧
      exec p.2.1 s = .next (f ea (effAddr m s).2) ∧
      (∀ b t, exec (p.2.2 (.imm b)) t = .next (g b t)) ∧
      (∀ a t, ReadsThenWrites a t (f a t)) ∧
      ∀ b t, (g b t).events = t.events ∧ (g b t).cycles = t.cycles := by
    simp only [List.mem_cons, List.not_mem_nil, or_false] at hp
    rcases hp with rfl | rfl | rfl | rfl | rfl | rfl
    · exact ⟨aslMem, oraByte, rfl, rfl, fun _ _ => rfl, fun _ _ => shiftMem_readsThenWrites _ _ _, fun _ _ => ⟨rfl, rfl⟩⟩
    · exact ⟨lsrMem, eorByte, rfl, rfl, fun _ _ => rfl, fun _ _ => shiftMem_readsThenWrites _ _ _, fun _ _ => ⟨rfl, rfl⟩⟩
    · exact ⟨rolMem, andByte, rfl, rfl, fun _ _ => rfl, fun _ _ => shiftMem_readsThenWrites _ _ _, fun _ _ => ⟨rfl, rfl⟩⟩
    · exact ⟨rorMem, adcByte, rfl, rfl, fun _ _ => rfl, fun _ _ => shiftMem_readsThenWrites _ _ _, fun _ _ => ⟨rfl, rfl⟩⟩
    · exact ⟨decMem, cmpByte, exec_dcp_eq_compose_decMem m s, rfl, fun _ _ => rfl, decMem_readsThenWrites,
        fun _ _ => ⟨rfl, rfl⟩⟩
    · exact ⟨incMem, sbcByte, rfl, rfl, fun _ _ => rfl, incMem_readsThenWrites, fun _ _ => ⟨rfl, rfl⟩⟩
  obtain ⟨w, hevents, hcycles⟩ := compose_readWriteRead m s hf hg
  exact ⟨_, _, w, hfirst, hsecond _ _, hwhole, hevents, hcycles⟩

end Sys2Proof.Machine
end

section
/-! The decoder and the encoder are inverse to each other (30_encoding.md R65, R67, R89). One way rests on `RomAgrees` and
`Reassembles` of every instruction. The other way rests on the 256 opcode bytes alone: what an instruction is, its operand
bytes apart, follows from its ROM entry. -/

namespace Sys2Proof
open Machine Laws

theorem romAgrees : ∀ i : Instr, RomAgrees.Statement i
  | .adc o => RomAgrees.adc o | .sbc o => RomAgrees.sbc o | .and o => RomAgrees.and o | .ora o => RomAgrees.ora o
  | .eor o => RomAgrees.eor o | .asl o => RomAgrees.asl o | .lsr o => RomAgrees.lsr o | .rol o => RomAgrees.rol o
  | .ror o => RomAgrees.ror o | .cmp o => RomAgrees.cmp o | .cpx o => RomAgrees.cpx o | .cpy o => RomAgrees.cpy o
  | .bit m => RomAgrees.bit m | .inc m => RomAgrees.inc m | .dec m => RomAgrees.dec m | .inx => RomAgrees.inx
  | .iny => RomAgrees.iny | .dex => RomAgrees.dex | .dey => RomAgrees.dey | .bcc b => RomAgrees.bcc b
  | .bcs b => RomAgrees.bcs b | .beq b => RomAgrees.beq b | .bne b => RomAgrees.bne b | .bmi b => RomAgrees.bmi b
  | .bpl b => RomAgrees.bpl b | .bvc b => RomAgrees.bvc b | .bvs b => RomAgrees.bvs b | .jmp j => RomAgrees.jmp j
  | .jsr w => RomAgrees.jsr w | .rts => RomAgrees.rts | .brk => RomAgrees.brk | .rti => RomAgrees.rti
  | .pha => RomAgrees.pha | .php => RomAgrees.php | .pla => RomAgrees.pla | .plp => RomAgrees.plp
  | .clc => RomAgrees.clc | .cld => RomAgrees.cld | .cli => RomAgrees.cli | .clv => RomAgrees.clv
  | .sec => RomAgrees.sec | .sed => RomAgrees.sed | .sei => RomAgrees.sei | .tax => RomAgrees.tax
  | .tay => RomAgrees.tay | .tsx => RomAgrees.tsx | .txa => RomAgrees.txa | .txs => RomAgrees.txs
  | .tya => RomAgrees.tya | .lda o => RomAgrees.lda o | .ldx o => RomAgrees.ldx o | .ldy o => RomAgrees.ldy o
  | .sta m => RomAgrees.sta m | .stx m => RomAgrees.stx m | .sty m => RomAgrees.sty m | .nop => RomAgrees.nop
  | .slo m => RomAgrees.slo m | .sre m => RomAgrees.sre m | .rla m => RomAgrees.rla m | .rra m => RomAgrees.rra m
  | .dcp m => RomAgrees.dcp m | .isc m => RomAgrees.isc m | .lax m => RomAgrees.lax m | .sax m => RomAgrees.sax m
  | .dop b o => RomAgrees.dop b o | .top b o => RomAgrees.top b o | .nopU b => RomAgrees.nopU b
  | .sbcU b => RomAgrees.sbcU b | .unassigned b => RomAgrees.unassigned b

theorem reassembles : ∀ i : Instr, Reassembles.Statement i
  | .adc o => Reassembles.adc o | .sbc o => Reassembles.sbc o | .and o => Reassembles.and o
  | .ora o => Reassembles.ora o | .eor o => Reassembles.eor o | .asl o => Reassembles.asl o
  | .lsr o => Reassembles.lsr o | .rol o => Reassembles.rol o | .ror o => Reassembles.ror o
  | .cmp o => Reassembles.cmp o | .cpx o => Reassembles.cpx o | .cpy o => Reassembles.cpy o
  | .bit m => Reassembles.bit m | .inc m => Reassembles.inc m | .dec m => Reassembles.dec m
  | .inx => Reassembles.inx | .iny => Reassembles.iny | .dex => Reassembles.dex | .dey => Reassembles.dey
  | .bcc b => Reassembles.bcc b | .bcs b => Reassembles.bcs b | .beq b => Reassembles.beq b
  | .bne b => Reassembles.bne b | .bmi b => Reassembles.bmi b | .bpl b => Reassembles.bpl b
  | .bvc b => Reassembles.bvc b | .bvs b => Reassembles.bvs b | .jmp j => Reassembles.jmp j
  | .jsr w => Reassembles.jsr w | .rts => Reassembles.rts | .brk => Reassembles.brk | .rti => Reassembles.rti
  | .pha => Reassembles.pha | .php => Reassembles.php | .pla => Reassembles.pla | .plp => Reassembles.plp
  | .clc => Reassembles.clc | .cld => Reassembles.cld | .cli => Reassembles.cli | .clv => Reassembles.clv
  | .sec => Reassembles.sec | .sed => Reassembles.sed | .sei => Reassembles.sei | .tax => Reassembles.tax
  | .tay => Reassembles.tay | .tsx => Reassembles.tsx | .txa => Reassembles.txa | .txs => Reassembles.txs
  | .tya => Reassembles.tya | .lda o => Reassembles.lda o | .ldx o => Reassembles.ldx o
  | .ldy o => Reassembles.ldy o | .sta m => Reassembles.sta m | .stx m => Reassembles.stx m
  | .sty m => Reassembles.sty m | .nop => Reassembles.nop | .slo m => Reassembles.slo m
  | .sre m => Reassembles.sre m | .rla m => Reassembles.rla m | .rra m => Reassembles.rra m
  | .dcp m => Reassembles.dcp m | .isc m => Reassembles.isc m | .lax m => Reassembles.lax m
  | .sax m => Reassembles.sax m | .dop b o => Reassembles.dop b o | .top b o => Reassembles.top b o
  | .nopU b => Reassembles.nopU b | .sbcU b => Reassembles.sbcU b | .unassigned b => Reassembles.unassigned b

theorem lengthOf_cases (opcode : Byte) : lengthOf opcode = 1 ∨ lengthOf opcode = 2 ∨ lengthOf opcode = 3 := by
  unfold lengthOf
  cases (dispatch opcode).mode <;> decide

/-- R65, R74: the decoder takes as many operand bytes as the opcode's length asks for. -/
theorem decode_cons {opcode : Byte} {operands : List Byte} (rest : List Byte)
    (hlength : operands.length + 1 = lengthOf opcode) :
    decode (opcode :: (operands ++ rest)) =
      .ok (decodeWith opcode (byteAt operands 0) (byteAt operands 1), rest) := by
  have hcases := lengthOf_cases opcode
  match operands with
  | [] => simp [decode, ← hlength, byteAt]
  | [b1] => simp [decode, ← hlength, byteAt]
  | [b1, b2] => simp [decode, ← hlength, byteAt]
  | _ :: _ :: _ :: _ => simp at hlength; omega

/-- Settles O45: the ROM entry at the opcode byte that the "Encoding" line gives is the instruction's operation and mode, and
with its operand bytes they assemble to it. -/
theorem decodeInvertsEncode : Obligations.DecodeInvertsEncode := by
  intro i rest hwf
  have hentry := romAgrees i hwf
  have hlength : i.operandBytes.length + 1 = lengthOf (opcodeOf i) := by
    rw [operandBytes_length, lengthOf, hentry]
  rw [encode, List.cons_append, decode_cons rest hlength, decodeWith, hentry]
  exact congrArg (fun j => Except.ok (j, rest)) (reassembles i hwf)

/-! ### The other direction -/

/-- R65: a list of bytes decodes only if it begins with an opcode byte and the operand bytes that this byte's length asks
for. -/
theorem decode_ok {bs rest : List Byte} {i : Instr} (h : decode bs = .ok (i, rest)) :
    ∃ opcode b1 b2, i = decodeWith opcode b1 b2 ∧ bs = opcode :: ([b1, b2].take (lengthOf opcode - 1) ++ rest) := by
  unfold decode at h
  split at h
  · cases h
  · rename_i opcode tail
    split at h <;> simp only [Except.ok.injEq, Prod.mk.injEq, reduceCtorEq] at h
    · rename_i hlen; obtain ⟨rfl, rfl⟩ := h; exact ⟨opcode, 0, 0, rfl, by simp [hlen]⟩
    · rename_i b1 tail hlen; obtain ⟨rfl, rfl⟩ := h; exact ⟨opcode, b1, 0, rfl, by simp [hlen]⟩
    · rename_i b1 b2 tail hlen; obtain ⟨rfl, rfl⟩ := h; exact ⟨opcode, b1, b2, rfl, by simp [hlen]⟩

theorem memOperand_mode (m : Mode) (b1 b2 : Byte) : (memOperand m b1 b2).mode = (memOperand m 0 0).mode := by
  cases m <;> rfl

theorem valueOperand_mode (m : Mode) (b1 b2 : Byte) : (valueOperand m b1 b2).mode = (valueOperand m 0 0).mode := by
  cases m <;> rfl

theorem shiftOperand_mode (m : Mode) (b1 b2 : Byte) : (shiftOperand m b1 b2).mode = (shiftOperand m 0 0).mode := by
  cases m <;> rfl

/-- Whether the instruction exists does not hang on its operand bytes. -/
theorem wellFormed_assemble (opcode : Byte) (op : Op) (m : Mode) (b1 b2 : Byte) :
    wellFormed (assemble opcode op m b1 b2) = wellFormed (assemble opcode op m 0 0) := by
  cases op <;>
    simp only [assemble, wellFormed, memOperand_mode m b1 b2, valueOperand_mode m b1 b2, shiftOperand_mode m b1 b2]

/-- Nor does its opcode byte. -/
theorem opcodeOf_assemble (opcode : Byte) (op : Op) (m : Mode) (b1 b2 : Byte) :
    opcodeOf (assemble opcode op m b1 b2) = opcodeOf (assemble opcode op m 0 0) := by
  cases op <;>
    simp only [assemble, opcodeOf, Instr.op, Instr.mode, memOperand_mode m b1 b2, valueOperand_mode m b1 b2,
      shiftOperand_mode m b1 b2]
  cases m <;> rfl

/-- R67: every one of the 256 bytes begins an instruction that exists. -/
theorem wellFormed_decodeWith (opcode b1 b2 : Byte) : wellFormed (decodeWith opcode b1 b2) = true := by
  rw [decodeWith, wellFormed_assemble]
  revert opcode; decide

/-- The encoder gives each instruction the byte that the ROM has it at. -/
theorem opcodeOf_decodeWith (opcode b1 b2 : Byte) : opcodeOf (decodeWith opcode b1 b2) = opcode := by
  rw [decodeWith, opcodeOf_assemble]
  revert opcode; decide

theorem decodeWith_op (opcode b1 b2 : Byte) : (decodeWith opcode b1 b2).op = (dispatch opcode).op := by
  have h := romAgrees _ (wellFormed_decodeWith opcode b1 b2)
  rw [opcodeOf_decodeWith] at h
  rw [h]

theorem decodeWith_mode (opcode b1 b2 : Byte) : (decodeWith opcode b1 b2).mode = (dispatch opcode).mode := by
  have h := romAgrees _ (wellFormed_decodeWith opcode b1 b2)
  rw [opcodeOf_decodeWith] at h
  rw [h]

theorem memOperand_bytes_of_mode {m : Mode} {b1 b2 : Byte} (h : (memOperand m b1 b2).mode = m) :
    (memOperand m b1 b2).bytes = [b1, b2].take (m.length - 1) := by
  cases m <;> simp [memOperand, Mem.mode, Mem.bytes, Mode.length] at h ⊢

theorem valueOperand_bytes_of_mode {m : Mode} {b1 b2 : Byte} (h : (valueOperand m b1 b2).mode = m) :
    (valueOperand m b1 b2).bytes = [b1, b2].take (m.length - 1) := by
  by_cases himm : m = .imm
  · subst himm; rfl
  · rw [valueOperand, if_neg himm] at h ⊢
    exact memOperand_bytes_of_mode h

theorem shiftOperand_bytes_of_mode {m : Mode} {b1 b2 : Byte} (h : (shiftOperand m b1 b2).mode = m) :
    (shiftOperand m b1 b2).bytes = [b1, b2].take (m.length - 1) := by
  by_cases hacc : m = .acc
  · subst hacc; rfl
  · rw [shiftOperand, if_neg hacc] at h ⊢
    exact memOperand_bytes_of_mode h

theorem jumpOperand_bytes_of_mode {m : Mode} {b1 b2 : Byte} (h : (jumpOperand m b1 b2).mode = m) :
    (jumpOperand m b1 b2).bytes = [b1, b2].take (m.length - 1) := by
  cases m <;> simp [jumpOperand, JumpTarget.mode, JumpTarget.bytes, Mode.length] at h ⊢

/-- An assembled instruction whose mode is the entry's has the operand bytes it was assembled from. -/
theorem operandBytes_assemble {opcode : Byte} {op : Op} {m : Mode} {b1 b2 : Byte}
    (h : (assemble opcode op m b1 b2).mode = m) :
    (assemble opcode op m b1 b2).operandBytes = [b1, b2].take (m.length - 1) := by
  cases op
  case adc | sbc | and | ora | eor | cmp | cpx | cpy | lda | ldx | ldy | dop | top => exact valueOperand_bytes_of_mode h
  case asl | lsr | rol | ror => exact shiftOperand_bytes_of_mode h
  case jmp => exact jumpOperand_bytes_of_mode h
  case bit | inc | dec | sta | stx | sty | slo | sre | rla | rra | dcp | isc | lax | sax =>
    exact memOperand_bytes_of_mode h
  case jsr =>
    obtain rfl : Mode.abs = m := h
    simp [assemble, Instr.operandBytes, Mode.length]
  all_goals exact h ▸ rfl

theorem encode_decodeWith (opcode b1 b2 : Byte) :
    encode (decodeWith opcode b1 b2) = opcode :: [b1, b2].take (lengthOf opcode - 1) := by
  rw [encode, opcodeOf_decodeWith]
  exact congrArg _ (operandBytes_assemble (decodeWith_mode opcode b1 b2))

/-- Settles O46: three bytes are enough for every opcode, and the bytes that the decoder took are those that the encoder
gives, `encode_decodeWith`. -/
theorem encodeInvertsDecode : Obligations.EncodeInvertsDecode := by
  refine ⟨fun b0 b1 b2 bs => ?_, fun bs rest i h => ?_⟩
  · rcases lengthOf_cases b0 with h | h | h
    · exact ⟨_, _, decode_cons (operands := []) (b1 :: b2 :: bs) h.symm⟩
    · exact ⟨_, _, decode_cons (operands := [b1]) (b2 :: bs) h.symm⟩
    · exact ⟨_, _, decode_cons (operands := [b1, b2]) bs h.symm⟩
  · obtain ⟨opcode, b1, b2, rfl, rfl⟩ := decode_ok h
    exact ⟨wellFormed_decodeWith opcode b1 b2, by rw [encode_decodeWith, List.cons_append]⟩

end Sys2Proof
end

section
/-! Facts about the opcode map that a reader can count (30_encoding.md R67 to R69, R89, R90). -/

namespace Sys2Proof
open Machine

/-- Settles O43: each word is decoded by the decoder itself. -/
theorem decodeSamples : Obligations.DecodeSamples := by
  unfold Obligations.DecodeSamples
  decide

theorem rom_length : rom.length = 256 := by
  simp only [rom, List.length_append]
  rfl

theorem exists_dispatch_eq_of_mem_rom {e : Entry} (he : e ∈ rom) : ∃ opcode, dispatch opcode = e := by
  obtain ⟨k, hk, rfl⟩ := List.mem_iff_getElem.mp he
  have h256 : k < 256 := rom_length ▸ hk
  exact ⟨BitVec.ofNat 8 k, by simp [dispatch, Nat.mod_eq_of_lt h256, hk]⟩

/-- Every entry of the ROM stands at an opcode byte, so what is checked of the 256 bytes holds of every entry. -/
theorem forall_mem_rom {P : Entry → Prop} (h : ∀ opcode, P (dispatch opcode)) : ∀ e ∈ rom, P e := by
  intro e he
  obtain ⟨opcode, rfl⟩ := exists_dispatch_eq_of_mem_rom he
  exact h opcode

theorem dispatch_op_eq_unassigned_iff (opcode : Byte) :
    (dispatch opcode).op = .unassigned ↔ opcode ∈ unassignedBytes := by
  revert opcode; decide

/-- R69: the length by mode, in its three groups. -/
theorem mode_length_eq (m : Mode) :
    m.length =
      if m ∈ ([.imp, .acc] : List Mode) then 1 else if m ∈ ([.abs, .abx, .aby, .ind] : List Mode) then 3 else 2 := by
  cases m <;> decide

/-- Settles O44: the entries are counted row by row and their kinds checked byte by byte; the length is a fact about the mode
alone. -/
theorem dispatchRomCountsAndKinds : Obligations.DispatchRomCountsAndKinds := by
  refine ⟨rom_length, ?undocumented, ?unassigned, dispatch_op_eq_unassigned_iff, forall_mem_rom (by decide),
    forall_mem_rom (by decide), forall_mem_rom (by decide), fun opcode => mode_length_eq (dispatch opcode).mode,
    forall_mem_rom (by decide), forall_mem_rom (by decide)⟩
  case undocumented | unassigned =>
    simp only [rom, List.countP_append]
    decide

end Sys2Proof
end

section
/-! The bus port (20_memory.md R46, R48, R52). Whatever an instruction does to memory and to the history, it does by single reads
and writes of the bus: `BusTrace`. So what one read and one write keep, every step keeps, and what an instruction reads and
stores is counted along its trace, once for every instruction: `exec_busUse`. -/

namespace Sys2Proof.Machine
open Safety

/-- `t` comes from `s` by the bus events `es`, each of them a read or a write of the bus port, and by changes of registers,
flags, `cycles` and the mark between them. -/
inductive BusTrace (s : State) : List BusEvent → State → Prop
  | refl : BusTrace s [] s
  | read {es : List BusEvent} {t : State} (a : Word) (h : BusTrace s es t) :
      BusTrace s (es ++ [.read a (busValue a t)]) (memRead a t).2
  | write {es : List BusEvent} {t : State} (a : Word) (v : Byte) (h : BusTrace s es t) :
      BusTrace s (es ++ [.write a v]) (memWrite a v t)
  | regs {es : List BusEvent} {t u : State} (h : BusTrace s es t) (hmemory : u.memory = t.memory)
      (hregion : u.ioRegion = t.ioRegion) (hevents : u.events = t.events) : BusTrace s es u

theorem writesOf_append (es es' : List BusEvent) : writesOf (es ++ es') = writesOf es ++ writesOf es' :=
  List.filterMap_append

namespace BusTrace

variable {s t u : State} {es es' : List BusEvent}

theorem events_eq (h : BusTrace s es t) : t.events = s.events ++ es := by
  induction h with
  | refl => simp
  | read a _ ih => simp [ih]
  | write a v _ ih => simp [ih]
  | regs _ _ _ hevents ih => rw [hevents, ih]

theorem ioRegion_eq (h : BusTrace s es t) : t.ioRegion = s.ioRegion := by
  induction h with
  | refl => rfl
  | read a _ ih => exact ih
  | write a v _ ih => exact ih
  | regs _ _ hregion _ ih => rw [hregion, ih]

theorem trans (h : BusTrace s es t) (h' : BusTrace t es' u) : BusTrace s (es ++ es') u := by
  induction h' with
  | refl => rwa [List.append_nil]
  | read a _ ih => rw [← List.append_assoc]; exact ih.read a
  | write a v _ ih => rw [← List.append_assoc]; exact ih.write a v
  | regs _ hmemory hregion hevents ih => exact ih.regs hmemory hregion hevents

/-- R48: the writes of the trace are the bytes stored. -/
theorem stored (h : BusTrace s es t) : stored s t (writesOf es) := by
  intro k
  induction h with
  | refl => rfl
  | read a _ ih => rwa [writesOf_append, List.foldl_append]
  | write a v h ih =>
    rw [memWrite_read, h.ioRegion_eq, ih, writesOf_append, List.foldl_append]
    rfl
  | regs _ hmemory _ _ ih => rw [hmemory, ih]

theorem wf (h : BusTrace s es t) (hwf : s.memory.wf) : t.memory.wf := by
  induction h with
  | refl => exact hwf
  | read a _ ih => exact ih
  | write a v _ ih => exact memWrite_wf a v _ ih
  | regs _ hmemory _ _ ih => rwa [hmemory]

end BusTrace

/-! ### One bus -/

theorem latestWrite_append_read (es : List BusEvent) (a b : Word) (w : Byte) :
    latestWrite (es ++ [.read b w]) a = latestWrite es a := by
  simp [latestWrite]

theorem latestWrite_append_write (es : List BusEvent) (a b : Word) (w : Byte) :
    latestWrite (es ++ [.write b w]) a = if b = a then some w else latestWrite es a := by
  simp [latestWrite]

/-- A read in a history that has grown by one event is one of the reads before it, or that event. -/
theorem read_of_append_singleton {es before after : List BusEvent} {e : BusEvent} {a : Word} {w : Byte}
    (h : es ++ [e] = before ++ .read a w :: after) :
    (∃ after', es = before ++ .read a w :: after') ∨ (es = before ∧ e = .read a w) := by
  rcases List.eq_nil_or_concat' after with rfl | ⟨after', x, rfl⟩
  · obtain ⟨hes, he⟩ := List.append_inj' h rfl
    exact .inr ⟨hes, by simpa using he⟩
  · rw [← List.cons_append, ← List.append_assoc] at h
    exact .inl ⟨after', (List.append_inj' h rfl).1⟩

theorem busCoherent_read {draw : Word → Byte} {s : State} (a : Word) (h : busCoherent draw s) :
    busCoherent draw (memRead a s).2 := by
  obtain ⟨hmemory, hreads⟩ := h
  refine ⟨fun b hb => ?_, fun before b w after hsplit => ?_⟩
  · simpa [latestWrite_append_read] using hmemory b hb
  · rcases read_of_append_singleton hsplit with ⟨after', hold⟩ | ⟨rfl, hnew⟩
    · exact hreads before b w after' hold
    · obtain ⟨rfl, rfl⟩ := BusEvent.read.inj hnew
      cases hio : isIo s.ioRegion a with
      | true => simp [busAnswer, hio, busValue_io]
      | false => simp [busAnswer, hio, busValue_ram, hmemory a hio]

theorem busCoherent_write {draw : Word → Byte} {s : State} (a : Word) (v : Byte) (h : busCoherent draw s) :
    busCoherent draw (memWrite a v s) := by
  obtain ⟨hmemory, hreads⟩ := h
  refine ⟨fun b hb => ?_, fun before b w after hsplit => ?_⟩
  · rw [memWrite_ioRegion] at hb
    rw [memWrite_read, memWrite_events, latestWrite_append_write, hmemory b hb]
    by_cases hab : a = b
    · simp [hab, hb]
    · simp [hab, mt BitVec.eq_of_toNat_eq (Ne.symm hab)]
  · rcases read_of_append_singleton hsplit with ⟨after', hold⟩ | ⟨-, hnew⟩
    · exact hreads before b w after' hold
    · cases hnew

/-- R48, R59: the bus events of a trace keep memory and history those of one bus. -/
theorem BusTrace.busCoherent {draw : Word → Byte} {s t : State} {es : List BusEvent} (h : BusTrace s es t)
    (hs : busCoherent draw s) : busCoherent draw t := by
  induction h with
  | refl => exact hs
  | read a _ ih => exact busCoherent_read a ih
  | write a v _ ih => exact busCoherent_write a v ih
  | regs _ hmemory hregion hevents ih => simpa only [Safety.busCoherent, hmemory, hregion, hevents] using ih

/-! ### What an instruction uses the bus for -/

theorem mem_mode_ne_imm (m : Mem) : m.mode ≠ .imm := by cases m <;> simp [Mem.mode]

/-- From `s` to `t` the bus served so many reads, and writes to these addresses, in this order. -/
def BusUse (s t : State) (reads : Nat) (stores : List Word) : Prop :=
  ∃ es, BusTrace s es t ∧ es.countP isRead = reads ∧ (writesOf es).map Prod.fst = stores

namespace BusUse

variable {s t u : State} {n : Nat} {stores : List Word}

theorem refl (s : State) : BusUse s s 0 [] := ⟨[], .refl, rfl, rfl⟩

theorem read (a : Word) (h : BusUse s t n stores) : BusUse s (memRead a t).2 (n + 1) stores := by
  obtain ⟨es, htrace, rfl, rfl⟩ := h
  exact ⟨_, htrace.read a, by simp [isRead], by simp [writesOf]⟩

theorem write (a : Word) (v : Byte) (h : BusUse s t n stores) : BusUse s (memWrite a v t) n (stores ++ [a]) := by
  obtain ⟨es, htrace, rfl, rfl⟩ := h
  exact ⟨_, htrace.write a v, by simp [isRead], by simp [writesOf]⟩

theorem regs (h : BusUse s t n stores) (hmemory : u.memory = t.memory) (hregion : u.ioRegion = t.ioRegion)
    (hevents : u.events = t.events) : BusUse s u n stores := by
  obtain ⟨es, htrace, hn, hstores⟩ := h
  exact ⟨es, htrace.regs hmemory hregion hevents, hn, hstores⟩

theorem push (b : Byte) (h : BusUse s t n stores) : BusUse s (push b t) n (stores ++ [stackAddr t.sp]) :=
  (h.write (stackAddr t.sp) b).regs rfl rfl rfl

theorem push16 (w : Word) (h : BusUse s t n stores) :
    BusUse s (push16 w t) n (stores ++ [stackAddr t.sp, stackAddr (t.sp - 1)]) := by
  simpa [Machine.push16] using (h.push (hi8 w)).push (lo8 w)

theorem pop (h : BusUse s t n stores) : BusUse s (pop t).2 (n + 1) stores :=
  (h.regs (u := { t with sp := t.sp + 1 }) rfl rfl rfl).read _

theorem pop16 (h : BusUse s t n stores) : BusUse s (pop16 t).2 (n + 2) stores := h.pop.pop

theorem readPair (lo hi : Word) (h : BusUse s t n stores) : BusUse s (readPair lo hi t).2 (n + 2) stores :=
  (h.read lo).read hi

theorem takeBreak (s : State) :
    BusUse s (takeBreak s) 2 [stackAddr s.sp, stackAddr (s.sp - 1), stackAddr (s.sp - 2)] := by
  have hpushes := ((refl s).push16 s.pc).push (pushedStatus s)
  rw [push16_sp] at hpushes
  exact ((hpushes.regs rfl rfl rfl).readPair Config.irqBrkVector (Config.irqBrkVector + 1)).regs rfl rfl rfl

theorem returnFromBreak (s : State) : BusUse s (returnFromBreak s) 3 [] :=
  have hstatus : BusUse s (writeStatus (Machine.pop s).1 (Machine.pop s).2) 1 [] := (refl s).pop.regs rfl rfl rfl
  hstatus.pop16.regs rfl rfl rfl

/-- R86 to R88: the pointer reads of the mode. -/
theorem effAddr (m : Mem) (s : State) : BusUse s (effAddr m s).2 (pointerReads m.mode) [] := by
  cases m with
  | izx b | izy b => exact (refl s).readPair _ _
  | _ => exact refl s

/-- R73: one more read in a memory mode. -/
theorem resolveValue (o : Value) (s : State) :
    BusUse s (resolveValue o s).2 (pointerReads o.mode + if o.mode = .imm then 0 else 1) [] := by
  cases o with
  | imm b => exact refl s
  | mem m =>
    rw [Value.mode, if_neg (mem_mode_ne_imm m)]
    exact (effAddr m s).read _

theorem jumpTarget (j : JumpTarget) (s : State) : BusUse s (jumpTarget j s).2 (pointerReads j.mode) [] := by
  cases j with
  | abs w => exact refl s
  | ind w => exact (refl s).readPair _ _

theorem shiftMem (f : Byte → ShiftResult) (a : Word) (h : BusUse s t n stores) :
    BusUse s (shiftMem f a t) (n + 1) (stores ++ [a]) :=
  (((h.read a).regs (u := { (memRead a t).2 with c := _ }) rfl rfl rfl).write a _).regs rfl rfl rfl

theorem incMem (a : Word) (h : BusUse s t n stores) : BusUse s (incMem a t) (n + 1) (stores ++ [a]) :=
  ((h.read a).write a _).regs rfl rfl rfl

theorem decMem (a : Word) (h : BusUse s t n stores) : BusUse s (decMem a t) (n + 1) (stores ++ [a]) :=
  ((h.read a).write a _).regs rfl rfl rfl

theorem decMemQuiet (a : Word) (h : BusUse s t n stores) : BusUse s (decMemQuiet a t) (n + 1) (stores ++ [a]) :=
  (h.read a).write a _

end BusUse

theorem branchIf_bus (taken : Bool) (offset : Byte) (s : State) :
    (branchIf taken offset s).memory = s.memory ∧ (branchIf taken offset s).ioRegion = s.ioRegion ∧
      (branchIf taken offset s).events = s.events := by
  cases taken <;> exact ⟨rfl, rfl, rfl⟩

/-- R52, the access table: how many bytes an instruction reads, and where it stores. -/
theorem exec_busUse {i : Instr} {s t : State} (h : exec i s = .next t) :
    BusUse s t (pointerReads i.mode + dataReads i) (storeAddrs i s) := by
  cases i
  case adc o | sbc o | and o | ora o | eor o | cmp o | cpx o | cpy o | lda o | ldx o | ldy o | dop _ o | top _ o =>
    cases h; exact (BusUse.resolveValue o s).regs rfl rfl rfl
  case asl o | lsr o | rol o | ror o =>
    cases o with
    | acc => cases h; exact (BusUse.refl s).regs rfl rfl rfl
    | mem m => cases h; cases m <;> exact (BusUse.effAddr _ s).shiftMem _ _
  case bit m | lax m => cases h; exact ((BusUse.effAddr m s).read _).regs rfl rfl rfl
  case inc m => cases h; exact (BusUse.effAddr m s).incMem _
  case dec m => cases h; exact (BusUse.effAddr m s).decMem _
  case sta m | stx m | sty m | sax m => cases h; exact (BusUse.effAddr m s).write _ _
  case slo m | sre m | rla m | rra m =>
    cases h; exact (((BusUse.effAddr m s).shiftMem _ _).read _).regs rfl rfl rfl
  case dcp m => cases h; exact (((BusUse.effAddr m s).decMemQuiet _).read _).regs rfl rfl rfl
  case isc m => cases h; exact (((BusUse.effAddr m s).incMem _).read _).regs rfl rfl rfl
  case jmp j => cases h; exact (BusUse.jumpTarget j s).regs rfl rfl rfl
  case jsr w =>
    cases h
    have hpush := (BusUse.refl s).push16 (s.pc - 1)
    exact hpush.regs rfl rfl rfl
  case rts => cases h; exact (BusUse.refl s).pop16.regs rfl rfl rfl
  case brk => cases h; exact BusUse.takeBreak s
  case rti => cases h; exact BusUse.returnFromBreak s
  case pha | php => cases h; exact (BusUse.refl s).push _
  case pla | plp => cases h; exact (BusUse.refl s).pop.regs rfl rfl rfl
  case bcc b | bcs b | beq b | bne b | bmi b | bpl b | bvc b | bvs b =>
    cases h
    obtain ⟨hmemory, hregion, hevents⟩ := branchIf_bus _ b s
    exact (BusUse.refl s).regs hmemory hregion hevents
  case unassigned b => cases h
  all_goals cases h; exact (BusUse.refl s).regs rfl rfl rfl

/-- Every next state of an instruction comes from the state it runs in by bus events. -/
theorem exec_busTrace {i : Instr} {s t : State} (h : exec i s = .next t) : ∃ es, BusTrace s es t := by
  obtain ⟨es, htrace, -, -⟩ := exec_busUse h
  exact ⟨es, htrace⟩

theorem fetch_busTrace (s : State) : ∃ es, BusTrace s es (fetch s).2 := by
  have hopcode : BusTrace s _ (memRead s.pc s).2 := .read s.pc .refl
  have hfetched : ∃ es, BusTrace s es (fetchBytes s).2.2.2 := by
    rcases lengthOf_cases (busValue s.pc s) with hlen | hlen | hlen
    · exact ⟨_, by simpa [fetchBytes, fetchOpcode, hlen] using hopcode⟩
    · exact ⟨_, by simpa [fetchBytes, fetchOpcode, hlen] using hopcode.read (s.pc + 1)⟩
    · exact ⟨_, by simpa [fetchBytes, fetchOpcode, hlen] using (hopcode.read (s.pc + 1)).read (s.pc + 2)⟩
  obtain ⟨es, htrace⟩ := hfetched
  exact ⟨es, htrace.regs rfl rfl rfl⟩

theorem step_busTrace {s t : State} (h : step s = .next t) : ∃ es, BusTrace s es t := by
  obtain ⟨-, hexec⟩ := step_next h
  obtain ⟨es, hfetch⟩ := fetch_busTrace s
  obtain ⟨es', hexec⟩ := exec_busTrace hexec
  exact ⟨es ++ es', hfetch.trans hexec⟩

theorem hostReset_busTrace (s : State) : ∃ es, BusTrace s es (hostReset s) := by
  unfold hostReset
  split
  · exact ⟨[], .refl⟩
  · have hstart : BusTrace s [] { s with sp := Config.resetSp, i := true, b := false } := BusTrace.refl.regs rfl rfl rfl
    exact ⟨_, ((hstart.read Config.resetVector).read (Config.resetVector + 1)).regs rfl rfl rfl⟩

/-- Settles O55: a step is bus events, and each of them keeps the canonical form. -/
theorem stepKeepsMemoryCanonical : Obligations.StepKeepsMemoryCanonical := by
  intro s t hwf hstep
  obtain ⟨es, htrace⟩ := step_busTrace hstep
  exact htrace.wf hwf

/-- Settles O56: a step, and the reset operation, are bus events, and each of them is answered or stored as R48 says. -/
theorem stepKeepsBusCoherent : Obligations.StepKeepsBusCoherent := by
  intro draw s t hs
  refine ⟨fun hstep => ?step, ?reset⟩
  case step =>
    obtain ⟨es, htrace⟩ := step_busTrace hstep
    exact htrace.busCoherent hs
  case reset =>
    obtain ⟨es, htrace⟩ := hostReset_busTrace s
    exact htrace.busCoherent hs

theorem countP_not_isRead (es : List BusEvent) : es.countP (fun e => !isRead e) = (writesOf es).length := by
  induction es with
  | nil => rfl
  | cons e es ih => cases e <;> simpa [writesOf, isRead] using ih

/-- The access table's count of writes is the number of addresses stored to. -/
theorem storeAddrs_length (i : Instr) (s : State) : (storeAddrs i s).length = dataWrites i := by
  cases i
  case asl o | lsr o | rol o | ror o => rcases o with _ | m <;> [rfl; (cases m <;> rfl)]
  all_goals rfl

/-- Settles O37: `exec_busUse` counts the reads, and each write is one of the addresses stored to. -/
theorem busEventsOfEveryInstruction : Obligations.BusEventsOfEveryInstruction := by
  intro i s t h
  obtain ⟨es, htrace, hreads, hstores⟩ := exec_busUse h
  refine ⟨es, htrace.events_eq, hreads, ?_⟩
  rw [countP_not_isRead, ← List.length_map Prod.fst, hstores, storeAddrs_length]

theorem foldl_stored_of_forall {α β : Type} (hit : α → Prop) [DecidablePred hit] (val : α → β) (ws : List α) (old : β)
    (h : ∀ p ∈ ws, ¬hit p) : ws.foldl (fun old p => if hit p then val p else old) old = old := by
  induction ws with
  | nil => rfl
  | cons p ws ih =>
    rw [List.foldl_cons, if_neg (h p (by simp))]
    exact ih fun q hq => h q (by simp [hq])

/-- An address that none of the stored bytes goes to, outside the I/O region, reads as before. -/
theorem stored_read_other {s t : State} {ws : List (Word × Byte)} (h : stored s t ws) (k : Nat)
    (hk : ∀ p ∈ ws, isIo s.ioRegion p.1 = false → k ≠ p.1.toNat) : t.memory.read k = s.memory.read k :=
  (h k).trans (foldl_stored_of_forall _ _ ws _ fun p hp hhit => hk p hp hhit.1 hhit.2)

/-- Settles O39: the bytes stored are the writes of the instruction's trace, whose addresses are `storeAddrs`. -/
theorem onlyStoredAddressesChange : Obligations.OnlyStoredAddressesChange := by
  intro i s t h
  obtain ⟨es, htrace, -, hstores⟩ := exec_busUse h
  refine ⟨fun k hk => stored_read_other htrace.stored k fun p hp _ => hk p.1 ?_, fun a ha => ?_⟩
  · exact hstores ▸ List.mem_map_of_mem hp
  · refine stored_read_other htrace.stored a.toNat fun p _ hram heq => ?_
    rw [← BitVec.eq_of_toNat_eq heq, ha] at hram
    exact Bool.noConfusion hram

/-- R48: with no bus event yet, the bytes in memory are the draws. -/
theorem powerOn_busCoherent (m : Memory) (region : List IoRange) :
    busCoherent (fun a => m.read a.toNat) (powerOn m region) :=
  ⟨fun _ _ => rfl, fun _ _ _ _ h => absurd h (by simp [powerOn])⟩

/-- Settles O57: the reset state is the reset operation, which keeps the bus coherent, on a constructed block. -/
theorem resetHasInvariants : Obligations.ResetHasInvariants := by
  refine ⟨reset_memory_wf, ?_, fun m region => ⟨powerOn_busCoherent m region, id⟩⟩
  obtain ⟨es, htrace⟩ := hostReset_busTrace (powerOn [] [])
  rw [reset_eq_hostReset_powerOn]
  exact htrace.busCoherent (powerOn_busCoherent [] [])

end Sys2Proof.Machine
end

section
/-! Frames (10_state.md R23 to R39). One lemma for each shared operation says which fields it may write; the frame of an
instruction is put together from them, and holds no field that the rules do not name the instruction as a writer of. -/

namespace Sys2Proof.Safety
open Machine

/-! ### Frames as a preorder -/

variable {w w' : List Field} {s t u : State}

theorem unchangedBut_refl (w : List Field) (s : State) : unchangedBut w s s := fun f _ => by cases f <;> rfl

theorem unchangedBut.trans (h : unchangedBut w s t) (h' : unchangedBut w t u) : unchangedBut w s u := fun f hf => by
  have hst := h f hf
  have htu := h' f hf
  cases f <;> exact Eq.trans htu hst

theorem unchangedBut.mono (h : unchangedBut w s t) (hsub : w ⊆ w') : unchangedBut w' s t := fun f hf =>
  h f fun hw => hf (hsub hw)

/-- A frame, field by field. -/
theorem unchangedBut_iff :
    unchangedBut w s t ↔
      (.a ∉ w → t.a = s.a) ∧ (.x ∉ w → t.x = s.x) ∧ (.y ∉ w → t.y = s.y) ∧ (.sp ∉ w → t.sp = s.sp) ∧
      (.pc ∉ w → t.pc = s.pc) ∧ (.c ∉ w → t.c = s.c) ∧ (.z ∉ w → t.z = s.z) ∧ (.i ∉ w → t.i = s.i) ∧
      (.d ∉ w → t.d = s.d) ∧ (.b ∉ w → t.b = s.b) ∧ (.v ∉ w → t.v = s.v) ∧ (.n ∉ w → t.n = s.n) ∧
      (.cycles ∉ w → t.cycles = s.cycles) ∧ (.fault ∉ w → t.fault = s.fault) ∧
      (.ioRegion ∉ w → t.ioRegion = s.ioRegion) := by
  constructor
  · intro h
    exact ⟨h .a, h .x, h .y, h .sp, h .pc, h .c, h .z, h .i, h .d, h .b, h .v, h .n, h .cycles, h .fault, h .ioRegion⟩
  · rintro ⟨ha, hx, hy, hsp, hpc, hc, hz, hi, hd, hb, hv, hn, hcycles, hfault, hregion⟩ f hf
    cases f <;> simp_all [same]

end Sys2Proof.Safety

namespace Sys2Proof.Machine
open Safety

variable {w : List Field} {s t : State}

/-! ### The shared operations -/

theorem unchangedBut_record (w : List Field) (es : List BusEvent) (s : State) : unchangedBut w s (record es s) :=
  fun f _ => by cases f <;> rfl

theorem unchangedBut_memWrite (w : List Field) (a : Word) (v : Byte) (s : State) : unchangedBut w s (memWrite a v s) :=
  fun f _ => by cases f <;> rfl

theorem unchangedBut_effAddr (w : List Field) (m : Mem) (s : State) : unchangedBut w s (effAddr m s).2 := by
  rw [effAddr_snd]
  exact unchangedBut_record w _ s

theorem unchangedBut_resolveValue (w : List Field) (o : Value) (s : State) : unchangedBut w s (resolveValue o s).2 := by
  rw [resolveValue_snd]
  exact unchangedBut_record w _ s

theorem unchangedBut_jumpTarget (w : List Field) (j : JumpTarget) (s : State) : unchangedBut w s (jumpTarget j s).2 := by
  rw [jumpTarget_snd]
  exact unchangedBut_record w _ s

theorem unchangedBut_updateZN (v : Byte) (s : State) : unchangedBut [.z, .n] s (updateZN v s) := by
  simp [unchangedBut_iff]

theorem unchangedBut_updateAZN (v : Byte) (s : State) : unchangedBut [.a, .z, .n] s (updateAZN v s) := by
  simp [unchangedBut_iff]

theorem unchangedBut_adcByte (v : Byte) (s : State) : unchangedBut [.a, .c, .v, .z, .n] s (adcByte v s) := by
  simp [unchangedBut_iff, adcByte]

theorem unchangedBut_sbcByte (v : Byte) (s : State) : unchangedBut [.a, .c, .v, .z, .n] s (sbcByte v s) := by
  simp [unchangedBut_iff, sbcByte]

theorem unchangedBut_compareBytes (p q : Byte) (s : State) : unchangedBut [.c, .z, .n] s (compareBytes p q s) := by
  simp [unchangedBut_iff]

theorem unchangedBut_bitByte (v : Byte) (s : State) : unchangedBut [.z, .v, .n] s (bitByte v s) := by
  simp [unchangedBut_iff, bitByte]

theorem unchangedBut_writeStatus (p : Byte) (s : State) :
    unchangedBut [.c, .z, .i, .d, .b, .v, .n] s (writeStatus p s) := by
  simp [unchangedBut_iff]

theorem unchangedBut_push (v : Byte) (s : State) : unchangedBut [.sp] s (push v s) := by simp [unchangedBut_iff]

theorem unchangedBut_push16 (v : Word) (s : State) : unchangedBut [.sp] s (push16 v s) :=
  (unchangedBut_push (hi8 v) s).trans (unchangedBut_push (lo8 v) _)

theorem unchangedBut_pop (s : State) : unchangedBut [.sp] s (pop s).2 := by simp [unchangedBut_iff, pop_eq]

theorem unchangedBut_pop16 (s : State) : unchangedBut [.sp] s (pop16 s).2 :=
  (unchangedBut_pop s).trans (unchangedBut_pop _)

theorem unchangedBut_shiftAcc (f : Byte → ShiftResult) (s : State) : unchangedBut [.a, .c, .z, .n] s (shiftAcc f s) := by
  simp [unchangedBut_iff, shiftAcc]

theorem unchangedBut_shiftMem (f : Byte → ShiftResult) (a : Word) (s : State) :
    unchangedBut [.c, .z, .n] s (shiftMem f a s) := by
  simp [unchangedBut_iff, shiftMem]

theorem unchangedBut_incMem (a : Word) (s : State) : unchangedBut [.z, .n] s (incMem a s) := by
  simp [unchangedBut_iff, incMem]

theorem unchangedBut_decMem (a : Word) (s : State) : unchangedBut [.z, .n] s (decMem a s) := by
  simp [unchangedBut_iff, decMem]

theorem unchangedBut_decMemQuiet (w : List Field) (a : Word) (s : State) : unchangedBut w s (decMemQuiet a s) :=
  (unchangedBut_record w _ s).trans (unchangedBut_memWrite w a _ _)

theorem unchangedBut_takeBreak (s : State) : unchangedBut [.pc, .sp, .b, .i] s (takeBreak s) := by
  obtain ⟨ha, hx, hy, hc, hz, hd, hv, hn, hcycles, hfault, hregion⟩ := takeBreak_frame s
  simp [unchangedBut_iff, *]

theorem unchangedBut_returnFromBreak (s : State) :
    unchangedBut [.pc, .sp, .c, .z, .i, .d, .b, .v, .n] s (returnFromBreak s) := by
  simp [unchangedBut_iff, returnFromBreak, pop16_eq, pop_eq]

theorem unchangedBut_branchIf (taken : Bool) (offset : Byte) (s : State) :
    unchangedBut [.pc, .cycles] s (branchIf taken offset s) := by
  cases taken <;> simp [unchangedBut_iff, branch]

/-- R185: a composition may write what its two primitives may. -/
theorem unchangedBut_compose {first : Word → State → State} {second : Byte → State → State} (m : Mem) (s : State)
    (hfirst : ∀ a t, unchangedBut w t (first a t)) (hsecond : ∀ v t, unchangedBut w t (second v t)) :
    unchangedBut w s (compose first second m s) :=
  (((unchangedBut_effAddr w m s).trans (hfirst _ _)).trans (unchangedBut_record w _ _)).trans (hsecond _ _)

/-! ### The instructions -/

/-- What the instruction changes lies within a frame of fields that the rules name it as a writer of. -/
theorem exec_frame {i : Instr} (h : exec i s = .next t) : ∃ w, unchangedBut w s t ∧ ∀ f ∈ w, writes i f = true := by
  cases i
  case adc o =>
    cases h; exact ⟨_, (unchangedBut_resolveValue _ o s).trans (unchangedBut_adcByte _ _), by simp [writes, Instr.op]⟩
  case sbc o =>
    cases h; exact ⟨_, (unchangedBut_resolveValue _ o s).trans (unchangedBut_sbcByte _ _), by simp [writes, Instr.op]⟩
  case sbcU b => cases h; exact ⟨_, unchangedBut_sbcByte b s, by simp [writes, Instr.op]⟩
  case and o | ora o | eor o | lda o =>
    cases h; exact ⟨_, (unchangedBut_resolveValue _ o s).trans (unchangedBut_updateAZN _ _), by simp [writes, Instr.op]⟩
  case cmp o | cpx o | cpy o =>
    cases h; exact ⟨_, (unchangedBut_resolveValue _ o s).trans (unchangedBut_compareBytes _ _ _), by simp [writes, Instr.op]⟩
  case dop _ o | top _ o => cases h; exact ⟨[], unchangedBut_resolveValue _ o s, by simp⟩
  case ldx o =>
    cases h
    exact ⟨[.x, .z, .n], (unchangedBut_resolveValue _ o s).trans (by simp [unchangedBut_iff]), by simp [writes, Instr.op]⟩
  case ldy o =>
    cases h
    exact ⟨[.y, .z, .n], (unchangedBut_resolveValue _ o s).trans (by simp [unchangedBut_iff]), by simp [writes, Instr.op]⟩
  case lax m =>
    cases h
    exact ⟨[.a, .x, .z, .n], (unchangedBut_effAddr _ m s).trans (by simp [unchangedBut_iff]), by simp [writes, Instr.op]⟩
  case asl o | lsr o | rol o | ror o =>
    cases o with
    | acc => cases h; exact ⟨_, unchangedBut_shiftAcc _ s, by simp [writes, Instr.op, Instr.mode, ShiftTarget.mode]⟩
    | mem m =>
      cases h; exact ⟨_, (unchangedBut_effAddr _ m s).trans (unchangedBut_shiftMem _ _ _), by simp [writes, Instr.op]⟩
  case bit m =>
    cases h
    exact ⟨_, (unchangedBut_resolveValue _ (.mem m) s).trans (unchangedBut_bitByte _ _), by simp [writes, Instr.op]⟩
  case inc m =>
    cases h; exact ⟨_, (unchangedBut_effAddr _ m s).trans (unchangedBut_incMem _ _), by simp [writes, Instr.op]⟩
  case dec m =>
    cases h; exact ⟨_, (unchangedBut_effAddr _ m s).trans (unchangedBut_decMem _ _), by simp [writes, Instr.op]⟩
  case sta m | stx m | sty m | sax m =>
    cases h; exact ⟨[], (unchangedBut_effAddr _ m s).trans (unchangedBut_memWrite _ _ _ _), by simp⟩
  case slo m | sre m | rla m =>
    cases h
    exact ⟨[.a, .c, .z, .n], unchangedBut_compose m s (fun _ _ => (unchangedBut_shiftMem _ _ _).mono (by simp))
      (fun _ _ => (unchangedBut_updateAZN _ _).mono (by simp)), by simp [writes, Instr.op]⟩
  case rra m =>
    cases h
    exact ⟨_, unchangedBut_compose m s (fun _ _ => (unchangedBut_shiftMem _ _ _).mono (by simp))
      unchangedBut_adcByte, by simp [writes, Instr.op]⟩
  case dcp m =>
    cases h
    exact ⟨_, unchangedBut_compose m s (fun _ _ => unchangedBut_decMemQuiet _ _ _)
      (fun _ t => unchangedBut_compareBytes t.a _ t), by simp [writes, Instr.op]⟩
  case isc m =>
    cases h
    exact ⟨_, unchangedBut_compose m s (fun _ _ => (unchangedBut_incMem _ _).mono (by simp)) unchangedBut_sbcByte,
      by simp [writes, Instr.op]⟩
  case jmp j =>
    cases h
    exact ⟨[.pc], (unchangedBut_jumpTarget _ j s).trans (by simp [unchangedBut_iff]), by simp [writes, Instr.op]⟩
  case jsr w =>
    cases h
    exact ⟨[.pc, .sp], ((unchangedBut_push16 (s.pc - 1) s).mono (by simp)).trans (by simp [unchangedBut_iff]),
      by simp [writes, Instr.op]⟩
  case rts =>
    cases h
    exact ⟨[.pc, .sp], ((unchangedBut_pop16 s).mono (by simp)).trans (by simp [unchangedBut_iff]),
      by simp [writes, Instr.op]⟩
  case brk => cases h; exact ⟨_, unchangedBut_takeBreak s, by simp [writes, Instr.op]⟩
  case rti => cases h; exact ⟨_, unchangedBut_returnFromBreak s, by simp [writes, Instr.op]⟩
  case pha | php => cases h; exact ⟨_, unchangedBut_push _ s, by simp [writes, Instr.op]⟩
  case pla =>
    cases h
    exact ⟨[.sp, .a, .z, .n], ((unchangedBut_pop s).mono (by simp)).trans ((unchangedBut_updateAZN _ _).mono (by simp)),
      by simp [writes, Instr.op]⟩
  case plp =>
    cases h
    exact ⟨[.sp, .c, .z, .i, .d, .b, .v, .n],
      ((unchangedBut_pop s).mono (by simp)).trans ((unchangedBut_writeStatus _ _).mono (by simp)),
      by simp [writes, Instr.op]⟩
  case bcc b | bcs b | beq b | bne b | bmi b | bpl b | bvc b | bvs b =>
    cases h; exact ⟨_, unchangedBut_branchIf _ b s, by simp [writes, Instr.op]⟩
  case inx | dex | tax | tsx => cases h; exact ⟨[.x, .z, .n], by simp [unchangedBut_iff], by simp [writes, Instr.op]⟩
  case iny | dey | tay => cases h; exact ⟨[.y, .z, .n], by simp [unchangedBut_iff], by simp [writes, Instr.op]⟩
  case txa | tya => cases h; exact ⟨_, unchangedBut_updateAZN _ s, by simp [writes, Instr.op]⟩
  case txs => cases h; exact ⟨[.sp], by simp [unchangedBut_iff], by simp [writes, Instr.op]⟩
  case clc | sec => cases h; exact ⟨[.c], by simp [unchangedBut_iff], by simp [writes, Instr.op]⟩
  case cld | sed => cases h; exact ⟨[.d], by simp [unchangedBut_iff], by simp [writes, Instr.op]⟩
  case cli | sei => cases h; exact ⟨[.i], by simp [unchangedBut_iff], by simp [writes, Instr.op]⟩
  case clv => cases h; exact ⟨[.v], by simp [unchangedBut_iff], by simp [writes, Instr.op]⟩
  case nop | nopU _ => cases h; exact ⟨[], unchangedBut_refl _ s, by simp⟩
  case unassigned b => cases h

/-- Settles O38: a field that the instruction is no writer of lies outside its frame, `exec_frame`. -/
theorem onlyNamedWritersWrite : Obligations.OnlyNamedWritersWrite := by
  intro i s t f h hf
  obtain ⟨w, hframe, hw⟩ := exec_frame h
  refine hframe f fun hmem => ?_
  rw [hw f hmem] at hf
  exact Bool.noConfusion hf

end Sys2Proof.Machine
end

section
/-! The step (30_encoding.md R70, R72): which bytes the fetch reads and what it decodes, said once as `fetch_eq`; when a step
completes, what it is where it does not, and the cycles that it adds (70_reset_and_hazards.md R226). -/

namespace Sys2Proof.Machine
open Safety

/-! ### The fetch -/

/-- The reads of three bytes from PC on, in order (R70). -/
def fetchReads (s : State) : List BusEvent :=
  let e0 := BusEvent.read s.pc (busValue s.pc s)
  let e1 := BusEvent.read (s.pc + 1) (busValue (s.pc + 1) (record [e0] s))
  let e2 := BusEvent.read (s.pc + 2) (busValue (s.pc + 2) (record [e0, e1] s))
  [e0, e1, e2]

/-- R70: the fetch does as many of these reads as the opcode's length asks for, decodes their bytes, and advances PC. -/
theorem fetch_eq (s : State) :
    let b0 := busValue s.pc s
    let b1 := busValue (s.pc + 1) (record [.read s.pc b0] s)
    let b2 := busValue (s.pc + 2) (record [.read s.pc b0, .read (s.pc + 1) b1] s)
    fetch s =
      (decodeWith b0 (if lengthOf b0 = 1 then 0 else b1) (if lengthOf b0 = 3 then b2 else 0),
       { record ((fetchReads s).take (lengthOf b0)) s with pc := s.pc + BitVec.ofNat 16 (advanceOf b0) }) := by
  rcases lengthOf_cases (busValue s.pc s) with h | h | h <;>
    simp [fetch, fetchBytes, fetchOpcode, fetchReads, h]

theorem decode_three (b0 b1 b2 : Byte) :
    decode [b0, b1, b2] =
      .ok (decodeWith b0 (if lengthOf b0 = 1 then 0 else b1) (if lengthOf b0 = 3 then b2 else 0),
        [b1, b2].drop (lengthOf b0 - 1)) := by
  rcases lengthOf_cases b0 with h | h | h <;> simp [decode, h]

theorem fetch_op (s : State) : (fetch s).1.op = (dispatch (busValue s.pc s)).op := by rw [fetch_eq, decodeWith_op]

/-- Settles O47: the three bytes at PC decode to the fetched instruction, and leave over what it is shorter than three. -/
theorem stepRunsDecodedInstruction : Obligations.StepRunsDecodedInstruction := by
  intro s i rest hfault b0 e0 b1 e1 b2 e2 hdecode
  rw [decode_three] at hdecode
  obtain ⟨rfl, rfl⟩ := Prod.mk.inj (Except.ok.inj hdecode)
  have hlength : 3 - ([b1, b2].drop (lengthOf b0 - 1)).length = lengthOf b0 := by
    rcases lengthOf_cases b0 with h | h | h <;> simp [h]
  rw [step_of_no_fault hfault, fetch_eq, hlength, decodeWith_op]
  rfl

/-! ### When a step completes -/

theorem instr_eq_unassigned {i : Instr} (h : i.op = .unassigned) : ∃ opcode, i = .unassigned opcode := by
  cases i
  case unassigned opcode => exact ⟨opcode, rfl⟩
  all_goals cases h

/-- R72: no other instruction faults or is refused. -/
theorem exec_next_of_op {i : Instr} (s : State) (h : i.op ≠ .unassigned) : ∃ t, exec i s = .next t := by
  cases i
  case unassigned opcode => exact absurd rfl h
  case asl o | lsr o | rol o | ror o => cases o <;> exact ⟨_, rfl⟩
  all_goals exact ⟨_, rfl⟩

/-- R72: an unassigned byte is fetched as itself. -/
theorem fetch_unassigned {s : State} (h : busValue s.pc s ∈ unassignedBytes) :
    (fetch s).1 = .unassigned (busValue s.pc s) := by
  rw [fetch_eq, decodeWith, (dispatch_op_eq_unassigned_iff _).mpr h, assemble]

theorem step_unassigned {s : State} (hfault : s.fault = none) (h : busValue s.pc s ∈ unassignedBytes) :
    step s = .fault (.unassignedOpcode (busValue s.pc s)) := by
  rw [step_of_no_fault hfault, fetch_unassigned h]
  rfl

/-- Settles O49: the fetched instruction is `unassigned` exactly when the byte is, and every other one has a next state. -/
theorem stepCompletesUnlessUnassigned : Obligations.StepCompletesUnlessUnassigned := by
  intro s hfault
  refine ⟨⟨fun ⟨t, ht⟩ hmem => ?_, fun hmem => ?_⟩, step_unassigned hfault⟩
  · rw [step_unassigned hfault hmem] at ht
    cases ht
  · rw [step_of_no_fault hfault]
    refine exec_next_of_op _ fun hop => hmem ?_
    rwa [fetch_op, dispatch_op_eq_unassigned_iff] at hop

/-- Settles O50: the step faults, `step_unassigned`, and the host records the opcode fetch and the mark. -/
theorem unassignedByteFaults : Obligations.UnassignedByteFaults := by
  refine ⟨fun opcode s => rfl, fun s hfault hmem => ?_⟩
  simp only [hostStep, hfault, step_unassigned hfault hmem]
  rfl

/-- Settles O51: each of these operations looks at the mark first. -/
theorem faultIsFinal : Obligations.FaultIsFinal := by
  refine fun r => ⟨fun s f h => ?machine, fun t f h => ?tracked⟩
  case machine =>
    exact ⟨step_of_fault h, by simp only [hostStep, h], by simp only [hostReset, h], by simp only [hostExternal, h]⟩
  case tracked =>
    exact ⟨trackedStep_of_fault h, trackedHostStep_of_fault h, by simp only [trackedReset, h],
      by simp only [trackedExternal, h]⟩

/-! ### Cycles -/

theorem branchIf_cycles (taken : Bool) (offset : Byte) (s : State) :
    (branchIf taken offset s).cycles = s.cycles ∨ (branchIf taken offset s).cycles = s.cycles + 1 ∨
      (branchIf taken offset s).cycles = s.cycles + 2 := by
  cases taken with
  | false => exact .inl rfl
  | true =>
    simp only [branchIf_true, branch]
    split
    · exact .inr (.inr rfl)
    · exact .inr (.inl rfl)

/-- R226: only a branch, the instructions of mode REL, adds cycles. -/
theorem exec_cycles {i : Instr} {s t : State} (h : exec i s = .next t) :
    (t.cycles = s.cycles ∨ t.cycles = s.cycles + 1 ∨ t.cycles = s.cycles + 2) ∧ (i.mode ≠ .rel → t.cycles = s.cycles) := by
  by_cases hwrites : writes i .cycles = true
  · cases i
    case bcc b | bcs b | beq b | bne b | bmi b | bpl b | bvc b | bvs b =>
      cases h
      exact ⟨branchIf_cycles _ b s, fun hmode => absurd rfl hmode⟩
    all_goals exact absurd hwrites Bool.false_ne_true
  · have hsame : t.cycles = s.cycles := onlyNamedWritersWrite i s t .cycles h (Bool.eq_false_of_not_eq_true hwrites)
    exact ⟨.inl hsame, fun _ => hsame⟩

/-- Settles O40: the fetch adds no cycles, and the instruction adds them as `exec_cycles` says. -/
theorem onlyBranchesAddCycles : Obligations.OnlyBranchesAddCycles := by
  intro s t h
  have hfetch : (fetch s).2.cycles = s.cycles := by rw [fetch_eq]; rfl
  rw [← hfetch]
  exact exec_cycles (step_next h).2

/-! ### Loading a word, and the end of a run -/

theorem word_ne_add_one (p : Word) : p ≠ p + 1 := by bv_omega
theorem word_ne_add_two (p : Word) : p ≠ p + 2 := by bv_omega
theorem word_add_one_ne_add_two (p : Word) : p + 1 ≠ p + 2 := by bv_omega

theorem fetchMeetsIo_eq_false {s : State} (h : fetchMeetsIo s = false) :
    isIo s.ioRegion s.pc = false ∧ isIo s.ioRegion (s.pc + 1) = false ∧ isIo s.ioRegion (s.pc + 2) = false := by
  simpa [fetchMeetsIo, and_assoc] using h

theorem busValue_record_ram {a : Word} {s : State} (es : List BusEvent) (h : isIo s.ioRegion a = false) :
    busValue a (record es s) = s.memory.read a.toNat :=
  busValue_ram a (record es s) h

/-- Outside the I/O region the three bytes that the fetch may read are those in memory. -/
theorem fetchReads_of_ram {s : State} (h : fetchMeetsIo s = false) :
    fetchReads s = [.read s.pc (s.memory.read s.pc.toNat), .read (s.pc + 1) (s.memory.read (s.pc + 1).toNat),
      .read (s.pc + 2) (s.memory.read (s.pc + 2).toNat)] := by
  obtain ⟨h0, h1, h2⟩ := fetchMeetsIo_eq_false h
  simp only [fetchReads, busValue_ram _ _ h0, busValue_record_ram _ h1, busValue_record_ram _ h2]

/-- R70, for a block whose next three bytes lie outside the I/O region. -/
theorem step_of_ram {s : State} {i : Instr} {rest : List Byte} (hfault : s.fault = none) (hram : fetchMeetsIo s = false)
    (hdecode : decode [s.memory.read s.pc.toNat, s.memory.read (s.pc + 1).toNat, s.memory.read (s.pc + 2).toNat] =
      .ok (i, rest)) :
    step s = exec i { record ((fetchReads s).take (3 - rest.length)) s with
      pc := s.pc + BitVec.ofNat 16 (if i.op = .unassigned then 0 else 3 - rest.length) } := by
  obtain ⟨h0, h1, h2⟩ := fetchMeetsIo_eq_false hram
  refine stepRunsDecodedInstruction s i rest hfault ?_
  simp only [busValue_ram _ _ h0, busValue_record_ram _ h1, busValue_record_ram _ h2]
  exact hdecode

/-- The bytes of a word are where `withFetchWord` puts them: at three addresses, which differ. -/
theorem withFetchWord_read (s : State) (nbits w : Nat) :
    let t := s.withFetchWord nbits w
    [t.memory.read t.pc.toNat, t.memory.read (t.pc + 1).toNat, t.memory.read (t.pc + 2).toNat] = wordBytes nbits w := by
  intro t
  have h01 : s.pc.toNat ≠ (s.pc + 1).toNat := mt BitVec.eq_of_toNat_eq (word_ne_add_one s.pc)
  have h02 : s.pc.toNat ≠ (s.pc + 2).toNat := mt BitVec.eq_of_toNat_eq (word_ne_add_two s.pc)
  have h12 : (s.pc + 1).toNat ≠ (s.pc + 2).toNat := mt BitVec.eq_of_toNat_eq (word_add_one_ne_add_two s.pc)
  simp only [t, State.withFetchWord, Memory.read_write, if_neg h01, if_neg h02, if_neg h12, if_true]
  rfl

theorem withFetchWord_fetchMeetsIo (s : State) (nbits w : Nat) : fetchMeetsIo (s.withFetchWord nbits w) = false := by
  have hregion : (s.withFetchWord nbits w).ioRegion = if fetchMeetsIo s then [] else s.ioRegion := rfl
  rw [fetchMeetsIo, hregion]
  cases h : fetchMeetsIo s with
  | true => rfl
  | false => exact h

/-- Every instruction that decodes is as long as the bytes it was decoded from. -/
theorem mode_length_of_decode {bs rest : List Byte} {i : Instr} (h : decode bs = .ok (i, rest)) :
    i.mode.length = bs.length - rest.length := by
  obtain ⟨-, rfl⟩ := encodeInvertsDecode.2 bs rest i h
  rw [List.length_append, encode_length, Nat.add_sub_cancel]

/-- Settles O48: the word's bytes are the three that the step reads, outside the I/O region, and the block has no fault. -/
theorem fetchWordIsRunNext : Obligations.FetchWordIsRunNext := by
  intro s nbits w i hword
  obtain ⟨rest, hdecode⟩ : ∃ rest, decode (wordBytes nbits w) = .ok (i, rest) := by
    unfold decodeTableWord at hword
    split at hword
    · rename_i r hr
      obtain rfl := Option.some.inj hword
      exact ⟨r.2, hr⟩
    · cases hword
  have hlength : i.mode.length = 3 - rest.length := mode_length_of_decode hdecode
  have hstep := step_of_ram (s := s.withFetchWord nbits w) rfl (withFetchWord_fetchMeetsIo s nbits w)
    ((congrArg decode (withFetchWord_read s nbits w)).trans hdecode)
  rw [← hlength] at hstep
  refine ⟨_, ?length, fun e he => ?reads, hstep⟩
  case length => rw [List.length_take, hlength]; exact Nat.min_eq_left (Nat.sub_le 3 _)
  case reads =>
    have hmem := List.mem_of_mem_take he
    simp only [fetchReads, List.mem_cons, List.not_mem_nil, or_false] at hmem
    rcases hmem with rfl | rfl | rfl <;> rfl

/-- R229: the three bytes at a halt address are a jump to itself. -/
theorem step_atHalt {s : State} (h : atHalt s) :
    step s = .next (record [.read s.pc 0x4C, .read (s.pc + 1) (lo8 s.pc), .read (s.pc + 2) (hi8 s.pc)] s) := by
  obtain ⟨hfault, hram, h0, h1, h2⟩ := h
  have hdecode : decode [0x4C, lo8 s.pc, hi8 s.pc] = .ok (.jmp (.abs s.pc), []) :=
    decodeInvertsEncode (.jmp (.abs s.pc)) [] rfl
  have hstep := step_of_ram (i := .jmp (.abs s.pc)) (rest := []) hfault hram (by rw [h0, h1, h2]; exact hdecode)
  rw [fetchReads_of_ram hram, h0, h1, h2] at hstep
  exact hstep

/-- Settles O52: the jump of `step_atHalt` changes the history alone, on which being at a halt address does not hang. -/
theorem haltLoopsForever : Obligations.HaltLoopsForever := fun _ h =>
  ⟨_, step_atHalt h, unchangedBut_record _ _ _, rfl, rfl, h⟩

end Sys2Proof.Machine
end

section
/-! Reset and construction (70_reset_and_hazards.md R220, R221; 10_state.md R40), and the spec's step over a block with unset
cells (10_state.md R22). -/

namespace Sys2Proof.Machine
open Safety

/-- R220, as one update of the state. -/
theorem hostReset_eq {s : State} (hfault : s.fault = none) :
    let lo := busValue 0xFFFC s
    let hi := busValue 0xFFFD (record [.read 0xFFFC lo] s)
    hostReset s = { s with
      sp := 0xFD, i := true, b := false, pc := ofHiLo hi lo
      events := s.events ++ [.read 0xFFFC lo, .read 0xFFFD hi] } := by
  simp only [hostReset, hfault, read16, readPair_eq]
  rfl

/-- Settles O53: the two bytes of the vector make the word that `hostReset_eq` loads. -/
theorem resetOperation : Obligations.ResetOperation := fun _ hfault =>
  ⟨_, _, _, rfl, rfl, ofHiLo_toNat _ _, hostReset_eq hfault⟩

theorem trackedReset_eq {t : Tracked} (hfault : t.state.fault = none) :
    trackedReset t = ⟨t.set ++ [.sp, .i, .pc], hostReset t.state⟩ := by
  simp only [trackedReset, hfault]

/-- Settles O54: no cell of a constructed block is set, and the reset operation sets the three that it writes. -/
theorem resetStateValues : Obligations.ResetStateValues := by
  refine ⟨fun m region => ⟨?constructed, rfl, rfl⟩, fun t hfault => ⟨_, _, _, rfl, rfl, ofHiLo_toNat _ _, ?reset⟩, rfl, rfl,
    rfl, rfl, rfl, rfl, rfl, reset_eq_hostReset_powerOn, reset_eq_hostReset_powerOn.symm⟩
  case constructed => simp [Tracked.view, Tracked.cell, trackedPowerOn, powerOn]
  case reset => simp [trackedReset_eq hfault, hostReset_eq hfault, Tracked.view, Tracked.cell]

/-- The spec's step goes on only if it is the machine's step (R22). -/
theorem trackedStep_next {t u : Tracked} (h : trackedStep t = .next u) :
    t.state.fault = none ∧ unsetRead t = none ∧ u.set = t.set ++ cellSets (fetch t.state).1 ∧
      step t.state = .next u.state := by
  cases hfault : t.state.fault with
  | some r => rw [trackedStep_of_fault hfault] at h; cases h
  | none =>
    cases hread : unsetRead t with
    | some p => rw [trackedStep_of_unset hfault hread] at h; cases h
    | none =>
      rw [trackedStep_of_set hfault hread] at h
      cases hstep : step t.state <;> rw [hstep] at h <;> cases h
      exact ⟨rfl, rfl, rfl, rfl⟩

/-- The first unset one of the cells read, as `unsetRead` finds it. -/
theorem unsetRead_of_first {t : Tracked} (hpc : .pc ∈ t.set) {earlier later : List RegCell} {r : RegCell}
    (hreads : (cellReads (fetch t.state).1 (fetch t.state).2).map CellRead.cell = earlier ++ r :: later)
    (hearlier : ∀ q ∈ earlier, q ∈ t.set) (hr : r ∉ t.set) : ∃ p, unsetRead t = some p ∧ p.cell = r := by
  obtain ⟨before, rest, hsplit, hbefore, hrest⟩ := List.map_eq_append_iff.mp hreads
  obtain ⟨p, after, rfl, rfl, -⟩ := List.map_eq_cons_iff.mp hrest
  refine ⟨p, ?_, rfl⟩
  rw [unsetRead, if_pos hpc, hsplit, List.find?_append, List.find?_eq_none.mpr, Option.none_or, List.find?_cons_of_pos]
  · simpa using hr
  · intro q hq
    simpa using hearlier q.cell (hbefore ▸ List.mem_map_of_mem hq)

/-- Settles O58: the spec's step asks `unsetRead`, which is the fetch's read of PC, the first unset cell of the instruction,
or none. -/
theorem specStepFaultsOnUnsetCell : Obligations.SpecStepFaultsOnUnsetCell := by
  intro t hfault reads after
  refine ⟨fun hpc => ?pcUnset, fun hpc earlier r later hreads hearlier hr => ?cellUnset, fun hpc hset => ?allSet,
    fun u hu => ?next⟩
  case pcUnset =>
    have hread : unsetRead t = some ⟨.pc, [], t.state⟩ := if_neg hpc
    refine ⟨trackedStep_of_unset hfault hread, ?_⟩
    rw [trackedHostStep_of_unset hfault hread, uninitState, List.append_nil]
  case cellUnset =>
    obtain ⟨p, hread, rfl⟩ := unsetRead_of_first hpc hreads hearlier hr
    exact trackedStep_of_unset hfault hread
  case allSet =>
    have hread : unsetRead t = none :=
      (unsetRead_eq_none t).mpr ⟨hpc, fun p hp => hset p.cell (List.mem_map_of_mem hp)⟩
    exact ⟨trackedStep_of_set hfault hread, trackedHostStep_of_set hfault hread⟩
  case next =>
    obtain ⟨-, -, -, hstep⟩ := trackedStep_next hu
    exact hstep

end Sys2Proof.Machine
end

section
/-! What no instruction reads decides nothing (10_state.md R21, R22, R30, R32). Two states agree at some fields, and in all that
the bus sees. If an instruction reads no other field, then its next states agree there too, and at the cells it sets:
`exec_agree`, put together from one lemma for each shared operation. -/

namespace Sys2Proof.Machine
open Safety

/-- The states have the same values in the fields of `P`, in `cycles`, and in what the bus answers from. -/
structure AgreeAt (P : Field → Prop) (s u : State) : Prop where
  field : ∀ f, P f → same s u f
  cycles : u.cycles = s.cycles
  memory : u.memory = s.memory
  ioRegion : u.ioRegion = s.ioRegion
  events : u.events = s.events

/-- The fields of `P`, and these. -/
def Also (P : Field → Prop) (w : List Field) : Field → Prop := fun f => P f ∨ f ∈ w

/-- A cell as a field. -/
def cellField : RegCell → Field
  | .a => .a
  | .x => .x
  | .y => .y
  | .sp => .sp
  | .pc => .pc
  | .c => .c
  | .z => .z
  | .i => .i
  | .d => .d
  | .v => .v
  | .n => .n

theorem cellField_injective : Function.Injective cellField := fun r q h => by
  cases r <;> cases q <;> simp_all [cellField]

namespace AgreeAt

variable {P Q : Field → Prop} {w : List Field} {s s' u u' : State}

theorem mono (h : AgreeAt P s u) (hsub : ∀ f, Q f → P f) : AgreeAt Q s u :=
  ⟨fun f hf => h.field f (hsub f hf), h.cycles, h.memory, h.ioRegion, h.events⟩

theorem also_mono {w' : List Field} (h : AgreeAt (Also P w) s u) (hsub : w' ⊆ w) : AgreeAt (Also P w') s u :=
  h.mono fun _ hf => hf.imp_right fun hw => hsub hw

theorem also_nil (h : AgreeAt P s u) : AgreeAt (Also P []) s u := h.mono fun _ hf => hf.resolve_right List.not_mem_nil

/-- The two states after an operation that writes `w` agree at `w` too, if it gives the same values there. -/
theorem update (h : AgreeAt P s u) (hs : unchangedBut w s s') (hu : unchangedBut w u u') (hw : ∀ f ∈ w, same s' u' f)
    (hcycles : u'.cycles = s'.cycles) (hmemory : u'.memory = s'.memory) (hregion : u'.ioRegion = s'.ioRegion)
    (hevents : u'.events = s'.events) : AgreeAt (Also P w) s' u' := by
  refine ⟨fun f hf => ?_, hcycles, hmemory, hregion, hevents⟩
  by_cases hfw : f ∈ w
  · exact hw f hfw
  · have hsu := h.field f (hf.resolve_right hfw)
    have hs := hs f hfw
    have hu := hu f hfw
    cases f <;> exact hu.trans (hsu.trans hs.symm)

/-! ### The bus -/

theorem busValue (h : AgreeAt P s u) (a : Word) : busValue a u = busValue a s :=
  busValue_congr a h.memory h.ioRegion h.events

theorem record (h : AgreeAt P s u) (es : List BusEvent) : AgreeAt P (record es s) (record es u) :=
  ⟨fun f hf => by have := h.field f hf; cases f <;> exact this, h.cycles, h.memory, h.ioRegion,
    congrArg (· ++ es) h.events⟩

theorem memRead (h : AgreeAt P s u) (a : Word) : AgreeAt P (memRead a s).2 (memRead a u).2 := by
  rw [memRead_snd, memRead_snd, h.busValue]
  exact h.record _

theorem memWrite (h : AgreeAt P s u) (a : Word) {v v' : Byte} (hv : v' = v) :
    AgreeAt P (memWrite a v s) (memWrite a v' u) := by
  subst hv
  exact ⟨fun f hf => by have := h.field f hf; cases f <;> exact this, h.cycles, by simp [h.memory, h.ioRegion],
    h.ioRegion, by simp [h.events]⟩

theorem readPair (h : AgreeAt P s u) (lo hi : Word) :
    (readPair lo hi u).1 = (readPair lo hi s).1 ∧ AgreeAt P (readPair lo hi s).2 (readPair lo hi u).2 := by
  have hlo := h.memRead lo
  refine ⟨?_, hlo.memRead hi⟩
  exact congrArg₂ ofHiLo (hlo.busValue hi) (h.busValue lo)

theorem effAddr (h : AgreeAt P s u) (m : Mem) (hindex : ∀ r ∈ indexCells m.mode, P (cellField r)) :
    (effAddr m u).1 = (effAddr m s).1 ∧ AgreeAt P (effAddr m s).2 (effAddr m u).2 := by
  cases m with
  | zp b => exact ⟨rfl, h⟩
  | abs w => exact ⟨rfl, h⟩
  | zpx b | abx b =>
    have hx : u.x = s.x := h.field .x (hindex .x (by simp [Mem.mode, indexCells]))
    exact ⟨by simp only [Machine.effAddr, hx], h⟩
  | zpy b | aby b =>
    have hy : u.y = s.y := h.field .y (hindex .y (by simp [Mem.mode, indexCells]))
    exact ⟨by simp only [Machine.effAddr, hy], h⟩
  | izx b =>
    have hx : u.x = s.x := h.field .x (hindex .x (by simp [Mem.mode, indexCells]))
    simp only [Machine.effAddr, hx]
    exact h.readPair _ _
  | izy b =>
    have hy : u.y = s.y := h.field .y (hindex .y (by simp [Mem.mode, indexCells]))
    obtain ⟨haddr, hstate⟩ := h.readPair (zext16 b) (zext16 (b + 1))
    exact ⟨by simp only [Machine.effAddr, hy, haddr], hstate⟩

theorem resolveValue (h : AgreeAt P s u) (o : Value) (hindex : ∀ r ∈ indexCells o.mode, P (cellField r)) :
    (resolveValue o u).1 = (resolveValue o s).1 ∧ AgreeAt P (resolveValue o s).2 (resolveValue o u).2 := by
  cases o with
  | imm b => exact ⟨rfl, h⟩
  | mem m =>
    obtain ⟨haddr, hstate⟩ := h.effAddr m hindex
    simp only [Machine.resolveValue, haddr]
    exact ⟨hstate.busValue _, hstate.memRead _⟩

theorem jumpTarget (h : AgreeAt P s u) (j : JumpTarget) :
    (jumpTarget j u).1 = (jumpTarget j s).1 ∧ AgreeAt P (jumpTarget j s).2 (jumpTarget j u).2 := by
  cases j with
  | abs w => exact ⟨rfl, h⟩
  | ind w => exact h.readPair _ _

/-! ### Registers and flags -/

/-- An update of registers and flags alone. -/
theorem regs (h : AgreeAt P s u) (hs : unchangedBut w s s') (hu : unchangedBut w u u') (hw : ∀ f ∈ w, same s' u' f)
    (hbus : s'.cycles = s.cycles ∧ s'.memory = s.memory ∧ s'.ioRegion = s.ioRegion ∧ s'.events = s.events := by
      exact ⟨rfl, rfl, rfl, rfl⟩)
    (hbus' : u'.cycles = u.cycles ∧ u'.memory = u.memory ∧ u'.ioRegion = u.ioRegion ∧ u'.events = u.events := by
      exact ⟨rfl, rfl, rfl, rfl⟩) : AgreeAt (Also P w) s' u' := by
  obtain ⟨hc, hm, hr, he⟩ := hbus
  obtain ⟨hc', hm', hr', he'⟩ := hbus'
  exact h.update hs hu hw (by rw [hc, hc', h.cycles]) (by rw [hm, hm', h.memory]) (by rw [hr, hr', h.ioRegion])
    (by rw [he, he', h.events])

theorem updateZN (h : AgreeAt P s u) (v : Byte) : AgreeAt (Also P [.z, .n]) (updateZN v s) (updateZN v u) :=
  h.regs (unchangedBut_updateZN v s) (unchangedBut_updateZN v u) (by simp [same])

theorem updateAZN (h : AgreeAt P s u) (v : Byte) : AgreeAt (Also P [.a, .z, .n]) (updateAZN v s) (updateAZN v u) :=
  h.regs (unchangedBut_updateAZN v s) (unchangedBut_updateAZN v u) (by simp [same])

/-- The logic instructions: a byte computed from A goes to A. -/
theorem updateAZN_of_a (h : AgreeAt P s u) (ha : P .a) (g : Byte → Byte) :
    AgreeAt (Also P [.a, .z, .n]) (Machine.updateAZN (g s.a) s) (Machine.updateAZN (g u.a) u) := by
  have ha : u.a = s.a := h.field .a ha
  rw [ha]
  exact h.updateAZN _

theorem andByte (h : AgreeAt P s u) (ha : P .a) (v : Byte) : AgreeAt (Also P [.a, .z, .n]) (andByte v s) (andByte v u) :=
  h.updateAZN_of_a ha (and8 · v)

theorem oraByte (h : AgreeAt P s u) (ha : P .a) (v : Byte) : AgreeAt (Also P [.a, .z, .n]) (oraByte v s) (oraByte v u) :=
  h.updateAZN_of_a ha (or8 · v)

theorem eorByte (h : AgreeAt P s u) (ha : P .a) (v : Byte) : AgreeAt (Also P [.a, .z, .n]) (eorByte v s) (eorByte v u) :=
  h.updateAZN_of_a ha (xor8 · v)

theorem compareBytes (h : AgreeAt P s u) {p p' : Byte} (hp : p' = p) (q : Byte) :
    AgreeAt (Also P [.c, .z, .n]) (compareBytes p q s) (compareBytes p' q u) :=
  h.regs (unchangedBut_compareBytes p q s) (unchangedBut_compareBytes p' q u) (by simp [same, hp])

theorem cmpByte (h : AgreeAt P s u) (ha : P .a) (v : Byte) : AgreeAt (Also P [.c, .z, .n]) (cmpByte v s) (cmpByte v u) :=
  h.compareBytes (h.field .a ha) v

theorem writeStatus (h : AgreeAt P s u) (p : Byte) :
    AgreeAt (Also P [.c, .z, .i, .d, .b, .v, .n]) (writeStatus p s) (writeStatus p u) :=
  h.regs (unchangedBut_writeStatus p s) (unchangedBut_writeStatus p u) (by simp [same])

theorem adcByte (h : AgreeAt P s u) (ha : P .a) (hc : P .c) (v : Byte) :
    AgreeAt (Also P [.a, .c, .v, .z, .n]) (adcByte v s) (adcByte v u) := by
  have ha : u.a = s.a := h.field .a ha
  have hc : u.c = s.c := h.field .c hc
  exact h.regs (unchangedBut_adcByte v s) (unchangedBut_adcByte v u) (by simp [same, Machine.adcByte, ha, hc])

theorem sbcByte (h : AgreeAt P s u) (ha : P .a) (hc : P .c) (v : Byte) :
    AgreeAt (Also P [.a, .c, .v, .z, .n]) (sbcByte v s) (sbcByte v u) := by
  have ha : u.a = s.a := h.field .a ha
  have hc : u.c = s.c := h.field .c hc
  exact h.regs (unchangedBut_sbcByte v s) (unchangedBut_sbcByte v u) (by simp [same, Machine.sbcByte, ha, hc])

theorem bitByte (h : AgreeAt P s u) (ha : P .a) (v : Byte) :
    AgreeAt (Also P [.z, .v, .n]) (bitByte v s) (bitByte v u) := by
  have ha : u.a = s.a := h.field .a ha
  exact h.regs (unchangedBut_bitByte v s) (unchangedBut_bitByte v u) (by simp [same, Machine.bitByte, ha])

theorem shiftAcc (h : AgreeAt P s u) (ha : P .a) (f : Byte → ShiftResult) :
    AgreeAt (Also P [.a, .c, .z, .n]) (shiftAcc f s) (shiftAcc f u) := by
  have ha : u.a = s.a := h.field .a ha
  exact h.regs (unchangedBut_shiftAcc f s) (unchangedBut_shiftAcc f u) (by simp [same, Machine.shiftAcc, ha])

theorem branchIf (h : AgreeAt P s u) (hpc : P .pc) {taken taken' : Bool} (htaken : taken' = taken) (offset : Byte) :
    AgreeAt P (branchIf taken offset s) (branchIf taken' offset u) := by
  have hpc : u.pc = s.pc := h.field .pc hpc
  subst htaken
  cases taken' with
  | false => exact h
  | true =>
    refine (h.update (unchangedBut_branchIf true offset s) (unchangedBut_branchIf true offset u) ?_ ?_ h.memory h.ioRegion
      h.events).mono fun _ => .inl
    · simp [same, branch, hpc, h.cycles]
    · simp [branch, hpc, h.cycles]

/-! ### Read-modify-write -/

theorem shiftMem (h : AgreeAt P s u) (f : Byte → ShiftResult) (a : Word) :
    AgreeAt (Also P [.c, .z, .n]) (shiftMem f a s) (shiftMem f a u) := by
  have hv := h.busValue a
  refine h.update (unchangedBut_shiftMem f a s) (unchangedBut_shiftMem f a u) ?_ h.cycles ?_ h.ioRegion ?_
  · simp [same, Machine.shiftMem, hv]
  · simp [Machine.shiftMem, hv, h.memory, h.ioRegion]
  · simp [Machine.shiftMem, hv, h.events]

theorem incMem (h : AgreeAt P s u) (a : Word) : AgreeAt (Also P [.z, .n]) (incMem a s) (incMem a u) := by
  simp only [Machine.incMem, memRead_fst, h.busValue]
  exact ((h.memRead a).memWrite a rfl).updateZN _

theorem decMem (h : AgreeAt P s u) (a : Word) : AgreeAt (Also P [.z, .n]) (decMem a s) (decMem a u) := by
  simp only [Machine.decMem, memRead_fst, h.busValue]
  exact ((h.memRead a).memWrite a rfl).updateZN _

theorem decMemQuiet (h : AgreeAt P s u) (a : Word) : AgreeAt P (decMemQuiet a s) (decMemQuiet a u) := by
  simp only [Machine.decMemQuiet, memRead_fst, h.busValue]
  exact (h.memRead a).memWrite a rfl

theorem rolMem (h : AgreeAt P s u) (hc : P .c) (a : Word) : AgreeAt (Also P [.c, .z, .n]) (rolMem a s) (rolMem a u) := by
  have hc : u.c = s.c := h.field .c hc
  rw [Machine.rolMem, Machine.rolMem, hc]
  exact h.shiftMem _ a

theorem rorMem (h : AgreeAt P s u) (hc : P .c) (a : Word) : AgreeAt (Also P [.c, .z, .n]) (rorMem a s) (rorMem a u) := by
  have hc : u.c = s.c := h.field .c hc
  rw [Machine.rorMem, Machine.rorMem, hc]
  exact h.shiftMem _ a

/-- R185: the first primitive, the second read, and the second primitive on the byte it gives. -/
theorem compose (h : AgreeAt P s u) {first : Word → State → State} {second : Byte → State → State} {m : Mem}
    {w' : List Field} (hindex : ∀ r ∈ indexCells m.mode, P (cellField r))
    (hfirst : ∀ a t v, AgreeAt P t v → AgreeAt (Also P w) (first a t) (first a v))
    (hsecond : ∀ b t v, AgreeAt (Also P w) t v → AgreeAt (Also (Also P w) w') (second b t) (second b v)) :
    AgreeAt (Also P (w ++ w')) (compose first second m s) (compose first second m u) := by
  obtain ⟨haddr, hstate⟩ := h.effAddr m hindex
  have hread := hfirst (Machine.effAddr m s).1 _ _ hstate
  simp only [Machine.compose, haddr, memRead_fst, hread.busValue]
  refine (hsecond _ _ _ (hread.memRead _)).mono fun f hf => ?_
  simpa [Also, or_assoc] using hf

/-! ### The stack -/

theorem push (h : AgreeAt P s u) (hsp : P .sp) {b b' : Byte} (hb : b' = b) : AgreeAt P (push b s) (push b' u) := by
  subst hb
  have hsp : u.sp = s.sp := h.field .sp hsp
  refine (h.update (unchangedBut_push b' s) (unchangedBut_push b' u) ?_ h.cycles ?_ h.ioRegion ?_).mono fun _ => .inl
  · simp [same, hsp]
  · simp [hsp, h.memory, h.ioRegion]
  · simp [hsp, h.events]

theorem push16 (h : AgreeAt P s u) (hsp : P .sp) {w w' : Word} (hw : w' = w) : AgreeAt P (push16 w s) (push16 w' u) :=
  (h.push hsp (congrArg hi8 hw)).push hsp (congrArg lo8 hw)

theorem pop (h : AgreeAt P s u) (hsp : P .sp) : (pop u).1 = (pop s).1 ∧ AgreeAt P (pop s).2 (pop u).2 := by
  have hsp : u.sp = s.sp := h.field .sp hsp
  refine ⟨?_, (h.update (unchangedBut_pop s) (unchangedBut_pop u) ?_ h.cycles h.memory h.ioRegion ?_).mono fun _ => .inl⟩
  · simp only [pop_eq, hsp, h.busValue]
  · simp [same, pop_eq, hsp]
  · simp only [pop_eq, hsp, h.busValue, h.events]

theorem pop16 (h : AgreeAt P s u) (hsp : P .sp) : (pop16 u).1 = (pop16 s).1 ∧ AgreeAt P (pop16 s).2 (pop16 u).2 := by
  obtain ⟨hlo, hpop⟩ := h.pop hsp
  obtain ⟨hhi, hpop'⟩ := hpop.pop hsp
  exact ⟨congrArg₂ ofHiLo hhi hlo, hpop'⟩

end AgreeAt

end Sys2Proof.Machine
end

section
/-! The agreement of next states, instruction by instruction (10_state.md R21). -/

namespace Sys2Proof.Machine
open Safety

/-- What BRK does to the flags, between the pushes and the vector (R147). -/
def setTrapFlags (s : State) : State := { s with b := true, i := s.i || Config.brkSetsI }

theorem takeBreak_eq (s : State) :
    let r := read16 Config.irqBrkVector (setTrapFlags (push (pushedStatus s) (push16 s.pc s)))
    takeBreak s = { r.2 with pc := r.1 } := rfl

namespace AgreeAt

variable {P : Field → Prop} {s u : State}

theorem withPc (h : AgreeAt P s u) {p q : Word} (hpq : q = p) : AgreeAt P { s with pc := p } { u with pc := q } :=
  (h.regs (w := [.pc]) (by simp [unchangedBut_iff]) (by simp [unchangedBut_iff]) (by simp [same, hpq])).mono
    fun _ => .inl

theorem setTrapFlags (h : AgreeAt P s u) (hi : P .i) : AgreeAt P (setTrapFlags s) (setTrapFlags u) := by
  have hi : u.i = s.i := h.field .i hi
  exact (h.regs (w := [.b, .i]) (by simp [unchangedBut_iff, Machine.setTrapFlags])
    (by simp [unchangedBut_iff, Machine.setTrapFlags]) (by simp [same, Machine.setTrapFlags, hi])).mono fun _ => .inl

theorem pushedStatus (h : AgreeAt P s u) (hflags : ∀ r ∈ statusCells, P (cellField r)) : pushedStatus u = pushedStatus s := by
  simp only [statusCells, List.forall_mem_cons, cellField] at hflags
  obtain ⟨hn, hv, hd, hi, hz, hc, -⟩ := hflags
  have hn : u.n = s.n := h.field .n hn
  have hv : u.v = s.v := h.field .v hv
  have hd : u.d = s.d := h.field .d hd
  have hi : u.i = s.i := h.field .i hi
  have hz : u.z = s.z := h.field .z hz
  have hc : u.c = s.c := h.field .c hc
  simp only [Machine.pushedStatus, statusWith, hn, hv, hd, hi, hz, hc]

theorem takeBreak (h : AgreeAt P s u) (hpc : P .pc) (hsp : P .sp) (hflags : ∀ r ∈ statusCells, P (cellField r)) :
    AgreeAt P (takeBreak s) (takeBreak u) := by
  have hpushes := (h.push16 hsp (h.field .pc hpc)).push hsp (h.pushedStatus hflags)
  obtain ⟨hword, hread⟩ :=
    (hpushes.setTrapFlags (hflags .i (by simp [statusCells]))).readPair Config.irqBrkVector (Config.irqBrkVector + 1)
  exact hread.withPc hword

theorem returnFromBreak (h : AgreeAt P s u) (hsp : P .sp) :
    AgreeAt (Also P [.c, .z, .i, .d, .b, .v, .n]) (returnFromBreak s) (returnFromBreak u) := by
  obtain ⟨hstatus, hpop⟩ := h.pop hsp
  obtain ⟨hword, hpop16⟩ := (hpop.writeStatus (Machine.pop s).1).pop16 (.inl hsp)
  rw [Machine.returnFromBreak, Machine.returnFromBreak, hstatus]
  exact hpop16.withPc hword

end AgreeAt

/-! ### The cells an instruction reads, without the states they are read in -/

@[simp] theorem memReads_cells (m : Mem) (s : State) : (memReads m s).map CellRead.cell = indexCells m.mode := by
  cases m <;> simp [memReads, Mem.mode, indexCells]

@[simp] theorem onValue_cells (o : Value) (cells : List RegCell) (s : State) :
    (onValue o cells s).map CellRead.cell = indexCells o.mode ++ cells := by
  cases o <;> simp [onValue, valueReads, Value.mode, indexCells]

@[simp] theorem onAddress_cells (m : Mem) (cells : List RegCell) (s : State) :
    (onAddress m cells s).map CellRead.cell = indexCells m.mode ++ cells := by
  simp [onAddress]

@[simp] theorem onCompose_cells (first : Word → State → State) (firstCells firstSets secondCells : List RegCell) (m : Mem)
    (s : State) :
    (onCompose first firstCells firstSets secondCells m s).map CellRead.cell =
      indexCells m.mode ++ firstCells ++ secondCells := by
  simp [onCompose]

variable {P : Field → Prop} {s u : State}

/-- From both states the instruction has a next state, and these agree where the states did and at the cells it sets. -/
def NextAgree (P : Field → Prop) (i : Instr) (s u : State) : Prop :=
  ∃ t v, exec i s = .next t ∧ exec i u = .next v ∧ AgreeAt (Also P ((cellSets i).map cellField)) t v

/-- An instruction on a VALUE operand, if its update of the state respects the agreement. -/
theorem nextAgree_of_value {i : Instr} {o : Value} {cells : List RegCell} {f : Byte → State → State} {w : List Field}
    (h : AgreeAt P s u) (hexec : ∀ s, exec i s = .next (f (resolveValue o s).1 (resolveValue o s).2))
    (hreads : ∀ r ∈ (onValue o cells s).map CellRead.cell, P (cellField r))
    (hf : ∀ b t v, (∀ r ∈ cells, P (cellField r)) → AgreeAt P t v → AgreeAt (Also P w) (f b t) (f b v))
    (hsets : (cellSets i).map cellField ⊆ w) : NextAgree P i s u := by
  rw [onValue_cells, List.forall_mem_append] at hreads
  obtain ⟨hindex, hcells⟩ := hreads
  obtain ⟨hbyte, hstate⟩ := h.resolveValue o hindex
  exact ⟨_, _, hexec s, hexec u, hbyte ▸ (hf _ _ _ hcells hstate).also_mono hsets⟩

/-- An instruction on an effective address. -/
theorem nextAgree_of_mem {i : Instr} {m : Mem} {cells : List RegCell} {f : Word → State → State} {w : List Field}
    (h : AgreeAt P s u) (hexec : ∀ s, exec i s = .next (f (effAddr m s).1 (effAddr m s).2))
    (hreads : ∀ r ∈ (onAddress m cells s).map CellRead.cell, P (cellField r))
    (hf : ∀ a t v, (∀ r ∈ cells, P (cellField r)) → AgreeAt P t v → AgreeAt (Also P w) (f a t) (f a v))
    (hsets : (cellSets i).map cellField ⊆ w) : NextAgree P i s u := by
  rw [onAddress_cells, List.forall_mem_append] at hreads
  obtain ⟨hindex, hcells⟩ := hreads
  obtain ⟨haddr, hstate⟩ := h.effAddr m hindex
  exact ⟨_, _, hexec s, hexec u, haddr ▸ (hf _ _ _ hcells hstate).also_mono hsets⟩

/-- A composition. -/
theorem nextAgree_of_compose {i : Instr} {m : Mem} {first : Word → State → State} {second : Byte → State → State}
    {firstCells firstSets secondCells : List RegCell} {w w' : List Field} (h : AgreeAt P s u)
    (hexec : ∀ s, exec i s = .next (compose first second m s))
    (hreads : ∀ r ∈ (onCompose first firstCells firstSets secondCells m s).map CellRead.cell, P (cellField r))
    (hfirst : ∀ a t v, (∀ r ∈ firstCells, P (cellField r)) → AgreeAt P t v →
      AgreeAt (Also P w) (first a t) (first a v))
    (hsecond : ∀ b t v, (∀ r ∈ secondCells, Also P w (cellField r)) → AgreeAt (Also P w) t v →
      AgreeAt (Also (Also P w) w') (second b t) (second b v))
    (hsets : (cellSets i).map cellField ⊆ w ++ w') : NextAgree P i s u := by
  rw [onCompose_cells, List.forall_mem_append, List.forall_mem_append] at hreads
  obtain ⟨⟨hindex, hfirstCells⟩, hsecondCells⟩ := hreads
  exact ⟨_, _, hexec s, hexec u, (h.compose hindex (fun a t v => hfirst a t v hfirstCells)
    fun b t v => hsecond b t v fun r hr => .inl (hsecondCells r hr)).also_mono hsets⟩

/-- An instruction of registers and flags alone. -/
theorem nextAgree_of_regs {i : Instr} {t v : State} (h : AgreeAt P s u) (hs : exec i s = .next t) (hu : exec i u = .next v)
    (hframe : unchangedBut ((cellSets i).map cellField) s t) (hframe' : unchangedBut ((cellSets i).map cellField) u v)
    (hsame : ∀ f ∈ (cellSets i).map cellField, same t v f)
    (hbus : t.cycles = s.cycles ∧ t.memory = s.memory ∧ t.ioRegion = s.ioRegion ∧ t.events = s.events := by
      exact ⟨rfl, rfl, rfl, rfl⟩)
    (hbus' : v.cycles = u.cycles ∧ v.memory = u.memory ∧ v.ioRegion = u.ioRegion ∧ v.events = u.events := by
      exact ⟨rfl, rfl, rfl, rfl⟩) : NextAgree P i s u :=
  ⟨t, v, hs, hu, h.regs hframe hframe' hsame hbus hbus'⟩

/-- If an instruction reads no other cell than those two states agree at, its next states agree where they do, and at the
cells that it sets (R21). PC, which the fetch has read, is not among the cells that it reads. -/
theorem exec_agree {i : Instr} (hop : i.op ≠ .unassigned) (h : AgreeAt P s u) (hpc : P .pc)
    (hreads : ∀ r ∈ (cellReads i s).map CellRead.cell, P (cellField r)) : NextAgree P i s u := by
  cases i
  case unassigned opcode => exact absurd rfl hop
  case adc o =>
    exact nextAgree_of_value h (fun _ => rfl) hreads
      (fun b _ _ hc h => h.adcByte (hc .a (by simp)) (hc .c (by simp)) b) (by simp [cellSets, cellField])
  case sbc o =>
    exact nextAgree_of_value h (fun _ => rfl) hreads
      (fun b _ _ hc h => h.sbcByte (hc .a (by simp)) (hc .c (by simp)) b) (by simp [cellSets, cellField])
  case sbcU b =>
    exact ⟨_, _, rfl, rfl, (h.sbcByte (hreads .a (by simp [cellReads])) (hreads .c (by simp [cellReads])) b).also_mono
      (by simp [cellSets, cellField])⟩
  case and o =>
    exact nextAgree_of_value h (fun _ => rfl) hreads (fun b _ _ hc h => h.andByte (hc .a (by simp)) b) (List.Subset.refl _)
  case ora o =>
    exact nextAgree_of_value h (fun _ => rfl) hreads (fun b _ _ hc h => h.oraByte (hc .a (by simp)) b) (List.Subset.refl _)
  case eor o =>
    exact nextAgree_of_value h (fun _ => rfl) hreads (fun b _ _ hc h => h.eorByte (hc .a (by simp)) b) (List.Subset.refl _)
  case cmp o =>
    exact nextAgree_of_value h (fun _ => rfl) hreads (fun b _ _ hc h => h.cmpByte (hc .a (by simp)) b) (List.Subset.refl _)
  case cpx o =>
    exact nextAgree_of_value h (f := fun b t => compareBytes t.x b t) (fun _ => rfl) hreads
      (fun b _ _ hc h => h.compareBytes (h.field .x (hc .x (by simp))) b) (List.Subset.refl _)
  case cpy o =>
    exact nextAgree_of_value h (f := fun b t => compareBytes t.y b t) (fun _ => rfl) hreads
      (fun b _ _ hc h => h.compareBytes (h.field .y (hc .y (by simp))) b) (List.Subset.refl _)
  case lda o =>
    exact nextAgree_of_value h (fun _ => rfl) hreads (fun b _ _ _ h => h.updateAZN b) (List.Subset.refl _)
  case ldx o =>
    exact nextAgree_of_value h (f := fun b t => updateZN b { t with x := b }) (w := [.x, .z, .n]) (fun _ => rfl) hreads
      (fun b _ _ _ h => h.regs (by simp [unchangedBut_iff]) (by simp [unchangedBut_iff]) (by simp [same]))
      (List.Subset.refl _)
  case ldy o =>
    exact nextAgree_of_value h (f := fun b t => updateZN b { t with y := b }) (w := [.y, .z, .n]) (fun _ => rfl) hreads
      (fun b _ _ _ h => h.regs (by simp [unchangedBut_iff]) (by simp [unchangedBut_iff]) (by simp [same]))
      (List.Subset.refl _)
  case dop _ o | top _ o =>
    exact nextAgree_of_value h (f := fun _ t => t) (fun _ => rfl) hreads (fun _ _ _ _ h => h.also_nil) (List.Subset.refl _)
  case bit m =>
    exact nextAgree_of_value (cells := [.a]) h (exec_bit m) hreads
      (fun b _ _ hc h => h.bitByte (hc .a (by simp)) b) (List.Subset.refl _)
  case asl o =>
    cases o with
    | acc =>
      exact ⟨_, _, rfl, rfl, (h.shiftAcc (hreads .a (by simp [cellReads])) _).also_mono (by simp [cellSets, cellField])⟩
    | mem m => exact nextAgree_of_mem h (fun _ => rfl) hreads (fun a _ _ _ h => h.shiftMem _ a) (List.Subset.refl _)
  case lsr o =>
    cases o with
    | acc =>
      exact ⟨_, _, rfl, rfl, (h.shiftAcc (hreads .a (by simp [cellReads])) _).also_mono (by simp [cellSets, cellField])⟩
    | mem m => exact nextAgree_of_mem h (fun _ => rfl) hreads (fun a _ _ _ h => h.shiftMem _ a) (List.Subset.refl _)
  case rol o =>
    cases o with
    | acc =>
      have hc : u.c = s.c := h.field .c (hreads .c (by simp [cellReads]))
      have hu : exec (.rol .acc) u = .next (shiftAcc (fun v => shl v s.c) u) := by rw [← hc]; rfl
      exact ⟨_, _, rfl, hu, (h.shiftAcc (hreads .a (by simp [cellReads])) _).also_mono (by simp [cellSets, cellField])⟩
    | mem m =>
      exact nextAgree_of_mem h (fun _ => rfl) hreads (fun a _ _ hc h => h.rolMem (hc .c (by simp)) a) (List.Subset.refl _)
  case ror o =>
    cases o with
    | acc =>
      have hc : u.c = s.c := h.field .c (hreads .c (by simp [cellReads]))
      have hu : exec (.ror .acc) u = .next (shiftAcc (fun v => shr v s.c) u) := by rw [← hc]; rfl
      exact ⟨_, _, rfl, hu, (h.shiftAcc (hreads .a (by simp [cellReads])) _).also_mono (by simp [cellSets, cellField])⟩
    | mem m =>
      exact nextAgree_of_mem h (fun _ => rfl) hreads (fun a _ _ hc h => h.rorMem (hc .c (by simp)) a) (List.Subset.refl _)
  case inc m => exact nextAgree_of_mem h (fun _ => rfl) hreads (fun a _ _ _ h => h.incMem a) (List.Subset.refl _)
  case dec m => exact nextAgree_of_mem h (fun _ => rfl) hreads (fun a _ _ _ h => h.decMem a) (List.Subset.refl _)
  case sta m =>
    exact nextAgree_of_mem h (f := fun a t => memWrite a t.a t) (fun _ => rfl) hreads
      (fun a _ _ hc h => (h.memWrite a (h.field .a (hc .a (by simp)))).also_nil) (List.Subset.refl _)
  case stx m =>
    exact nextAgree_of_mem h (f := fun a t => memWrite a t.x t) (fun _ => rfl) hreads
      (fun a _ _ hc h => (h.memWrite a (h.field .x (hc .x (by simp)))).also_nil) (List.Subset.refl _)
  case sty m =>
    exact nextAgree_of_mem h (f := fun a t => memWrite a t.y t) (fun _ => rfl) hreads
      (fun a _ _ hc h => (h.memWrite a (h.field .y (hc .y (by simp)))).also_nil) (List.Subset.refl _)
  case sax m =>
    exact nextAgree_of_mem h (f := fun a t => memWrite a (t.a &&& t.x) t) (fun _ => rfl) hreads
      (fun a _ _ hc h => (h.memWrite a (congrArg₂ (· &&& ·) (h.field .a (hc .a (by simp)))
        (h.field .x (hc .x (by simp))))).also_nil) (List.Subset.refl _)
  case lax m =>
    exact nextAgree_of_mem h
      (f := fun a t => updateZN (busValue a t) { (memRead a t).2 with a := busValue a t, x := busValue a t })
      (w := [.a, .x, .z, .n]) (fun _ => rfl) hreads
      (fun a t v _ h => h.busValue a ▸ (h.memRead a).regs (by simp [unchangedBut_iff]) (by simp [unchangedBut_iff])
        (by simp [same])) (List.Subset.refl _)
  case slo m =>
    exact nextAgree_of_compose h (fun _ => rfl) hreads (fun a _ _ _ h => h.shiftMem _ a)
      (fun b _ _ hc h => h.oraByte (hc .a (by simp)) b) (by simp [cellSets, cellField])
  case sre m =>
    exact nextAgree_of_compose h (fun _ => rfl) hreads (fun a _ _ _ h => h.shiftMem _ a)
      (fun b _ _ hc h => h.eorByte (hc .a (by simp)) b) (by simp [cellSets, cellField])
  case rla m =>
    exact nextAgree_of_compose h (fun _ => rfl) hreads (fun a _ _ hc h => h.rolMem (hc .c (by simp)) a)
      (fun b _ _ hc h => h.andByte (hc .a (by simp)) b) (by simp [cellSets, cellField])
  case rra m =>
    exact nextAgree_of_compose h (fun _ => rfl) hreads (fun a _ _ hc h => h.rorMem (hc .c (by simp)) a)
      (fun b _ _ hc h => h.adcByte (hc .a (by simp)) (.inr (by simp)) b) (by simp [cellSets, cellField])
  case dcp m =>
    exact nextAgree_of_compose h (fun _ => rfl) hreads (fun a _ _ _ h => (h.decMemQuiet a).also_nil)
      (fun b _ _ hc h => h.cmpByte (hc .a (by simp)) b) (by simp [cellSets, cellField])
  case isc m =>
    exact nextAgree_of_compose h (fun _ => rfl) hreads (fun a _ _ _ h => h.incMem a)
      (fun b _ _ hc h => h.sbcByte (hc .a (by simp)) (hc .c (by simp)) b) (by simp [cellSets, cellField])
  case bcc b =>
    exact ⟨_, _, rfl, rfl, (h.branchIf hpc (congrArg not (h.field .c (hreads .c (by simp [cellReads])))) b).also_nil⟩
  case bcs b => exact ⟨_, _, rfl, rfl, (h.branchIf hpc (h.field .c (hreads .c (by simp [cellReads]))) b).also_nil⟩
  case beq b => exact ⟨_, _, rfl, rfl, (h.branchIf hpc (h.field .z (hreads .z (by simp [cellReads]))) b).also_nil⟩
  case bne b =>
    exact ⟨_, _, rfl, rfl, (h.branchIf hpc (congrArg not (h.field .z (hreads .z (by simp [cellReads])))) b).also_nil⟩
  case bmi b => exact ⟨_, _, rfl, rfl, (h.branchIf hpc (h.field .n (hreads .n (by simp [cellReads]))) b).also_nil⟩
  case bpl b =>
    exact ⟨_, _, rfl, rfl, (h.branchIf hpc (congrArg not (h.field .n (hreads .n (by simp [cellReads])))) b).also_nil⟩
  case bvc b =>
    exact ⟨_, _, rfl, rfl, (h.branchIf hpc (congrArg not (h.field .v (hreads .v (by simp [cellReads])))) b).also_nil⟩
  case bvs b => exact ⟨_, _, rfl, rfl, (h.branchIf hpc (h.field .v (hreads .v (by simp [cellReads]))) b).also_nil⟩
  case jmp j =>
    obtain ⟨htarget, hstate⟩ := h.jumpTarget j
    exact ⟨_, _, rfl, rfl, (hstate.withPc htarget).also_nil⟩
  case jsr w =>
    have hpush := h.push16 (hreads .sp (by simp [cellReads])) (congrArg (· - 1) (h.field .pc hpc))
    exact ⟨_, _, rfl, rfl, (hpush.withPc rfl).also_nil⟩
  case rts =>
    obtain ⟨hword, hstate⟩ := h.pop16 (hreads .sp (by simp [cellReads]))
    exact ⟨_, _, rfl, rfl, (hstate.withPc (congrArg (· + 1) hword)).also_nil⟩
  case brk =>
    exact ⟨_, _, rfl, rfl, (h.takeBreak hpc (hreads .sp (by simp [cellReads])) fun r hr =>
      hreads r (by simp [cellReads, hr])).also_nil⟩
  case rti =>
    exact ⟨_, _, rfl, rfl, (h.returnFromBreak (hreads .sp (by simp [cellReads]))).also_mono (by simp [cellSets, cellField])⟩
  case pha =>
    exact ⟨_, _, rfl, rfl, (h.push (hreads .sp (by simp [cellReads])) (h.field .a (hreads .a (by simp [cellReads])))).also_nil⟩
  case php =>
    exact ⟨_, _, rfl, rfl, (h.push (hreads .sp (by simp [cellReads])) (h.pushedStatus fun r hr =>
      hreads r (by simp [cellReads, hr]))).also_nil⟩
  case pla =>
    obtain ⟨hbyte, hstate⟩ := h.pop (hreads .sp (by simp [cellReads]))
    exact ⟨_, _, rfl, rfl, hbyte ▸ hstate.updateAZN _⟩
  case plp =>
    obtain ⟨hbyte, hstate⟩ := h.pop (hreads .sp (by simp [cellReads]))
    exact ⟨_, _, rfl, rfl, hbyte ▸ (hstate.writeStatus _).also_mono (by simp [cellSets, cellField])⟩
  case inx | dex =>
    have hx : u.x = s.x := h.field .x (hreads .x (by simp [cellReads]))
    exact nextAgree_of_regs h rfl rfl (by simp [unchangedBut_iff, cellSets, cellField])
      (by simp [unchangedBut_iff, cellSets, cellField]) (by simp [same, cellSets, cellField, hx])
  case iny | dey =>
    have hy : u.y = s.y := h.field .y (hreads .y (by simp [cellReads]))
    exact nextAgree_of_regs h rfl rfl (by simp [unchangedBut_iff, cellSets, cellField])
      (by simp [unchangedBut_iff, cellSets, cellField]) (by simp [same, cellSets, cellField, hy])
  case tax | tay =>
    have ha : u.a = s.a := h.field .a (hreads .a (by simp [cellReads]))
    exact nextAgree_of_regs h rfl rfl (by simp [unchangedBut_iff, cellSets, cellField])
      (by simp [unchangedBut_iff, cellSets, cellField]) (by simp [same, cellSets, cellField, ha])
  case tsx =>
    have hsp : u.sp = s.sp := h.field .sp (hreads .sp (by simp [cellReads]))
    exact nextAgree_of_regs h rfl rfl (by simp [unchangedBut_iff, cellSets, cellField])
      (by simp [unchangedBut_iff, cellSets, cellField]) (by simp [same, cellSets, cellField, hsp])
  case txs =>
    have hx : u.x = s.x := h.field .x (hreads .x (by simp [cellReads]))
    exact nextAgree_of_regs h rfl rfl (by simp [unchangedBut_iff, cellSets, cellField])
      (by simp [unchangedBut_iff, cellSets, cellField]) (by simp [same, cellSets, cellField, hx])
  case txa =>
    have hx : u.x = s.x := h.field .x (hreads .x (by simp [cellReads]))
    exact ⟨_, _, rfl, hx ▸ rfl, h.updateAZN s.x⟩
  case tya =>
    have hy : u.y = s.y := h.field .y (hreads .y (by simp [cellReads]))
    exact ⟨_, _, rfl, hy ▸ rfl, h.updateAZN s.y⟩
  case clc | cld | cli | clv | sec | sed | sei =>
    exact nextAgree_of_regs h rfl rfl (by simp [unchangedBut_iff, cellSets, cellField])
      (by simp [unchangedBut_iff, cellSets, cellField]) (by simp [same, cellSets, cellField])
  case nop | nopU _ => exact ⟨_, _, rfl, rfl, h.also_nil⟩

/-! ### B and I -/

/-- States that agree at every field but B differ in B alone. -/
theorem AgreeAt.eq_of_not_mem_b (h : AgreeAt (· ∉ [.b]) s u) : u = { s with b := u.b } := by
  obtain ⟨hframe, hcycles, hmemory, hregion, hevents⟩ := h
  replace hframe : unchangedBut [.b] s u := hframe
  cases s
  cases u
  simp_all [unchangedBut_iff]

theorem AgreeAt.eq_of_not_mem_i (h : AgreeAt (· ∉ [.i]) s u) : u = { s with i := u.i } := by
  obtain ⟨hframe, hcycles, hmemory, hregion, hevents⟩ := h
  replace hframe : unchangedBut [.i] s u := hframe
  cases s
  cases u
  simp_all [unchangedBut_iff]

theorem not_mem_indexCells_i (m : Mode) : .i ∉ indexCells m := by cases m <;> simp [indexCells]

/-- R30: only PHP and BRK read I. -/
theorem not_mem_cellReads_i {i : Instr} (s : State) (hphp : i.op ≠ .php) (hbrk : i.op ≠ .brk) :
    .i ∉ (cellReads i s).map CellRead.cell := by
  cases i
  case php => exact absurd rfl hphp
  case brk => exact absurd rfl hbrk
  case asl o | lsr o | rol o | ror o => cases o <;> simp [cellReads, not_mem_indexCells_i]
  all_goals simp [cellReads, not_mem_indexCells_i]

theorem op_ne_unassigned_of_next {i : Instr} {s t : State} (h : exec i s = .next t) : i.op ≠ .unassigned := by
  intro hop
  obtain ⟨opcode, rfl⟩ := instr_eq_unassigned hop
  cases h

/-- Settles O42: no instruction reads B, and only PHP and BRK read I, so `exec_agree` leaves no other difference. -/
theorem breakAndInterruptFlagsDecideNothing : Obligations.BreakAndInterruptFlagsDecideNothing := by
  intro i s t f ht
  have hop := op_ne_unassigned_of_next ht
  refine ⟨?b, fun hphp hbrk => ?i⟩
  case b =>
    have hframe : unchangedBut [.b] s { s with b := f } := by simp [unchangedBut_iff]
    have hagree : AgreeAt (· ∉ [.b]) s { s with b := f } := ⟨hframe, rfl, rfl, rfl, rfl⟩
    obtain ⟨t', u, hs, hu, hnext⟩ := exec_agree hop hagree (by simp) fun r _ => by cases r <;> simp [cellField]
    obtain rfl := Host.Outcome.next.inj (ht.symm.trans hs)
    exact ⟨u, hu, (hnext.mono fun _ => .inl).eq_of_not_mem_b⟩
  case i =>
    have hframe : unchangedBut [.i] s { s with i := f } := by simp [unchangedBut_iff]
    have hagree : AgreeAt (· ∉ [.i]) s { s with i := f } := ⟨hframe, rfl, rfl, rfl, rfl⟩
    obtain ⟨t', u, hs, hu, hnext⟩ := exec_agree hop hagree (by simp) fun r hr hi =>
      not_mem_cellReads_i s hphp hbrk (cellField_injective (a₁ := r) (a₂ := .i) (List.mem_singleton.mp hi) ▸ hr)
    obtain rfl := Host.Outcome.next.inj (ht.symm.trans hs)
    exact ⟨u, hu, (hnext.mono fun _ => .inl).eq_of_not_mem_i⟩

end Sys2Proof.Machine
end

section
/-! Unset cells (10_state.md R21, R22): two blocks with the same cells set, whose states agree on these, go through the same
fetch, read the same cells in the same order, and stop at the same one or go on to blocks of the same kind. -/

namespace Sys2Proof.Machine
open Safety

/-! ### Agreement on the set cells -/

/-- The fields that blocks with these cells set share: these cells, and every field that is no cell. -/
def FixedBy (set : List RegCell) : Field → Prop := fun f => ∀ r, cellField r = f → r ∈ set

theorem fixedBy_cellField {set : List RegCell} {r : RegCell} : FixedBy set (cellField r) ↔ r ∈ set :=
  ⟨fun h => h r rfl, fun h _ hq => cellField_injective hq ▸ h⟩

theorem fixedBy_append {set more : List RegCell} {f : Field} (h : FixedBy (set ++ more) f) :
    Also (FixedBy set) (more.map cellField) f := by
  by_cases hf : f ∈ more.map cellField
  · exact .inr hf
  · refine .inl fun r hr => (List.mem_append.mp (h r hr)).resolve_right fun hmore => hf ?_
    exact hr ▸ List.mem_map_of_mem hmore

variable {set : List RegCell} {s u : State}

theorem agreeOn_iff : agreeOn set s u ↔ AgreeAt (FixedBy set) s u := by
  constructor
  · rintro ⟨hcells, hb, hcycles, hfault, hmemory, hregion, hevents⟩
    refine ⟨fun f hf => ?_, hcycles, hmemory, hregion, hevents⟩
    cases f with
    | b => exact hb
    | cycles => exact hcycles
    | fault => exact hfault
    | ioRegion => exact hregion
    | a => exact hcells .a (hf .a rfl)
    | x => exact hcells .x (hf .x rfl)
    | y => exact hcells .y (hf .y rfl)
    | sp => exact hcells .sp (hf .sp rfl)
    | pc => exact hcells .pc (hf .pc rfl)
    | c => exact hcells .c (hf .c rfl)
    | z => exact hcells .z (hf .z rfl)
    | i => exact hcells .i (hf .i rfl)
    | d => exact hcells .d (hf .d rfl)
    | v => exact hcells .v (hf .v rfl)
    | n => exact hcells .n (hf .n rfl)
  · intro h
    refine ⟨fun r hr => ?_, h.field .b ?_, h.cycles, h.field .fault ?_, h.memory, h.ioRegion, h.events⟩
    · have hsame := h.field (cellField r) (fixedBy_cellField.mpr hr)
      cases r <;> exact hsame
    · rintro ⟨⟩ ⟨⟩
    · rintro ⟨⟩ ⟨⟩

/-! ### The reads of cells -/

/-- The two lists read the same cells in order, up to the first that is not set, with the same sets and with states that agree. -/
inductive ReadsAgree (set : List RegCell) : List CellRead → List CellRead → Prop
  | nil : ReadsAgree set [] []
  | cons {p q : CellRead} {ps qs : List CellRead} (hcell : q.cell = p.cell) (hset : q.set = p.set)
      (hstate : AgreeAt (FixedBy (set ++ p.set)) p.state q.state) (htail : p.cell ∈ set → ReadsAgree set ps qs) :
      ReadsAgree set (p :: ps) (q :: qs)

variable {ps qs ps' qs' : List CellRead}

theorem ReadsAgree.append (h : ReadsAgree set ps qs)
    (h' : (∀ r ∈ ps.map CellRead.cell, r ∈ set) → ReadsAgree set ps' qs') : ReadsAgree set (ps ++ ps') (qs ++ qs') := by
  induction h with
  | nil => exact h' (by simp)
  | cons hcell hset hstate _ ih =>
    exact .cons hcell hset hstate fun hp => ih hp fun hps => h' (List.forall_mem_cons.mpr ⟨hp, hps⟩)

/-- The first read of an unset cell is the same in both, and agrees. -/
theorem ReadsAgree.find (h : ReadsAgree set ps qs) :
    (ps.find? (fun p => decide (p.cell ∉ set)) = none ∧ qs.find? (fun q => decide (q.cell ∉ set)) = none) ∨
    ∃ p q, ps.find? (fun p => decide (p.cell ∉ set)) = some p ∧ qs.find? (fun q => decide (q.cell ∉ set)) = some q ∧
      q.cell = p.cell ∧ q.set = p.set ∧ AgreeAt (FixedBy (set ++ p.set)) p.state q.state := by
  induction h with
  | nil => exact .inl ⟨rfl, rfl⟩
  | @cons p q ps qs hcell hset hstate _ ih =>
    by_cases hp : p.cell ∈ set
    · simpa [List.find?_cons, hcell, hp] using ih hp
    · exact .inr ⟨p, q, by simp [hp], by simp [hcell, hp], hcell, hset, hstate⟩

theorem readsAt_agree (cells sets : List RegCell) (h : AgreeAt (FixedBy (set ++ sets)) s u) :
    ReadsAgree set (readsAt cells sets s) (readsAt cells sets u) := by
  induction cells with
  | nil => exact .nil
  | cons r cells ih => exact .cons rfl rfl h fun _ => ih

/-- Reads that come before the instruction has set any cell. -/
theorem readsAt_nil_agree (cells : List RegCell) (h : AgreeAt (FixedBy set) s u) :
    ReadsAgree set (readsAt cells [] s) (readsAt cells [] u) :=
  readsAt_agree cells [] ((List.append_nil set).symm ▸ h)

theorem memReads_agree (m : Mem) (h : AgreeAt (FixedBy set) s u) : ReadsAgree set (memReads m s) (memReads m u) := by
  cases m with
  | zp _ | abs _ => exact .nil
  | izy b =>
    obtain ⟨-, hpointer⟩ := h.readPair (zext16 b) (zext16 (b + 1))
    exact readsAt_nil_agree _ hpointer
  | _ => exact readsAt_nil_agree _ h

theorem onValue_agree (o : Value) (cells : List RegCell) (h : AgreeAt (FixedBy set) s u) :
    ReadsAgree set (onValue o cells s) (onValue o cells u) := by
  cases o with
  | imm b => exact readsAt_nil_agree cells h
  | mem m =>
    refine (memReads_agree m h).append fun hindex => readsAt_nil_agree cells ?_
    rw [memReads_cells] at hindex
    exact (h.resolveValue (.mem m) fun r hr => fixedBy_cellField.mpr (hindex r hr)).2

theorem onAddress_agree (m : Mem) (cells : List RegCell) (h : AgreeAt (FixedBy set) s u) :
    ReadsAgree set (onAddress m cells s) (onAddress m cells u) := by
  refine (memReads_agree m h).append fun hindex => readsAt_nil_agree cells ?_
  rw [memReads_cells] at hindex
  exact (h.effAddr m fun r hr => fixedBy_cellField.mpr (hindex r hr)).2

theorem onCompose_agree {first : Word → State → State} {firstCells firstSets : List RegCell} (secondCells : List RegCell)
    (m : Mem) (h : AgreeAt (FixedBy set) s u)
    (hfirst : ∀ a t v, (∀ r ∈ firstCells, FixedBy set (cellField r)) → AgreeAt (FixedBy set) t v →
      AgreeAt (Also (FixedBy set) (firstSets.map cellField)) (first a t) (first a v)) :
    ReadsAgree set (onCompose first firstCells firstSets secondCells m s)
      (onCompose first firstCells firstSets secondCells m u) := by
  refine (onAddress_agree m firstCells h).append fun hcells => readsAt_agree secondCells firstSets ?_
  rw [onAddress_cells, List.forall_mem_append] at hcells
  obtain ⟨hindex, hfirstCells⟩ := hcells
  obtain ⟨haddr, hstate⟩ := h.effAddr m fun r hr => fixedBy_cellField.mpr (hindex r hr)
  rw [haddr]
  exact ((hfirst _ _ _ (fun r hr => fixedBy_cellField.mpr (hfirstCells r hr)) hstate).memRead _).mono
    fun _ => fixedBy_append

/-- R22: which cells an instruction reads, and what stands before each read, hangs on the set cells alone. -/
theorem cellReads_agree (i : Instr) (h : AgreeAt (FixedBy set) s u) (hpc : .pc ∈ set) :
    ReadsAgree set (cellReads i s) (cellReads i u) := by
  cases i
  case adc o | sbc o | and o | ora o | eor o | cmp o | cpx o | cpy o | lda o | ldx o | ldy o | dop _ o | top _ o =>
    exact onValue_agree o _ h
  case bit m => exact onValue_agree (.mem m) [.a] h
  case asl o | lsr o | rol o | ror o =>
    cases o with
    | acc => exact readsAt_nil_agree _ h
    | mem m => exact onAddress_agree m _ h
  case inc m | dec m | sta m | stx m | sty m | lax m | sax m => exact onAddress_agree m _ h
  case slo m | sre m => exact onCompose_agree _ m h fun a _ _ _ h => h.shiftMem _ a
  case rla m => exact onCompose_agree _ m h fun a _ _ hc h => h.rolMem (hc .c (by simp)) a
  case rra m => exact onCompose_agree _ m h fun a _ _ hc h => h.rorMem (hc .c (by simp)) a
  case dcp m => exact onCompose_agree _ m h fun a _ _ _ h => (h.decMemQuiet a).also_nil
  case isc m => exact onCompose_agree _ m h fun a _ _ _ h => h.incMem a
  case brk =>
    refine (readsAt_nil_agree [.sp] h).append fun hsp => readsAt_nil_agree statusCells ?_
    have hsp : FixedBy set .sp := fixedBy_cellField.mpr (hsp .sp (by simp))
    exact h.push16 hsp (h.field .pc (fixedBy_cellField.mpr hpc))
  case jmp _ | clc | cld | cli | clv | sec | sed | sei | nop | nopU _ | unassigned _ => exact .nil
  all_goals exact readsAt_nil_agree _ h

/-! ### The step -/

theorem fetchReads_agree {P : Field → Prop} (h : AgreeAt P s u) (hpc : P .pc) : fetchReads u = fetchReads s := by
  have hpc : u.pc = s.pc := h.field .pc hpc
  simp only [fetchReads, hpc, h.busValue, (h.record _).busValue]

theorem fetch_agree {P : Field → Prop} (h : AgreeAt P s u) (hpc : P .pc) :
    (fetch u).1 = (fetch s).1 ∧ AgreeAt P (fetch s).2 (fetch u).2 := by
  have hpcs : u.pc = s.pc := h.field .pc hpc
  have hreads := fetchReads_agree h hpc
  simp only [fetch_eq, hpcs, hreads, h.busValue, (h.record _).busValue, true_and]
  exact (h.record _).withPc rfl

/-- Two blocks with the same cells set, whose states agree on them. -/
def TrackedAgree (t u : Tracked) : Prop := u.set = t.set ∧ AgreeAt (FixedBy t.set) t.state u.state

variable {t v : Tracked}

theorem unsetRead_agree (h : TrackedAgree t v) :
    (unsetRead t = none ∧ unsetRead v = none) ∨
    ∃ p q, unsetRead t = some p ∧ unsetRead v = some q ∧ q.cell = p.cell ∧ q.set = p.set ∧
      AgreeAt (FixedBy (t.set ++ p.set)) p.state q.state := by
  obtain ⟨hset, hagree⟩ := h
  by_cases hpc : .pc ∈ t.set
  · obtain ⟨hinstr, hfetch⟩ := fetch_agree hagree (fixedBy_cellField.mpr hpc)
    have hfind := (cellReads_agree (fetch t.state).1 hfetch hpc).find
    simpa only [unsetRead, hset, hpc, if_true, hinstr] using hfind
  · refine .inr ⟨⟨.pc, [], t.state⟩, ⟨.pc, [], v.state⟩, if_neg hpc, if_neg (hset ▸ hpc), rfl, rfl, ?_⟩
    rwa [List.append_nil]

/-- R70: the machine's step on two such blocks that read no unset cell: the same fault, of an instruction that sets no cell, or
next states that agree. -/
theorem step_agree (h : TrackedAgree t v) (hfault : t.state.fault = none) (hread : unsetRead t = none) :
    v.set ++ cellSets (fetch v.state).1 = t.set ++ cellSets (fetch t.state).1 ∧
    ((∃ r, step t.state = .fault r ∧ step v.state = .fault r ∧ cellSets (fetch t.state).1 = []) ∨
     ∃ s u, step t.state = .next s ∧ step v.state = .next u ∧
      AgreeAt (FixedBy (t.set ++ cellSets (fetch t.state).1)) s u) := by
  obtain ⟨hset, hagree⟩ := h
  obtain ⟨hpc, hcells⟩ := (unsetRead_eq_none t).mp hread
  have hpcFixed : FixedBy t.set .pc := fixedBy_cellField.mpr hpc
  obtain ⟨hinstr, hfetch⟩ := fetch_agree hagree hpcFixed
  have hfault' : v.state.fault = none := (hagree.field .fault (by rintro ⟨⟩ ⟨⟩)).trans hfault
  rw [step_of_no_fault hfault, step_of_no_fault hfault', hinstr, hset]
  refine ⟨rfl, ?_⟩
  by_cases hop : (fetch t.state).1.op = .unassigned
  · obtain ⟨opcode, hunassigned⟩ := instr_eq_unassigned hop
    rw [hunassigned]
    exact .inl ⟨_, rfl, rfl, rfl⟩
  · obtain ⟨s, u, hs, hu, hnext⟩ := exec_agree hop hfetch hpcFixed fun r hr => by
      obtain ⟨p, hp, rfl⟩ := List.mem_map.mp hr
      exact fixedBy_cellField.mpr (hcells p hp)
    exact .inr ⟨s, u, hs, hu, hnext.mono fun _ => fixedBy_append⟩

theorem withFault_agree {P : Field → Prop} {s u : State} (h : AgreeAt P s u) (r : Fault) :
    AgreeAt P { s with fault := some r } { u with fault := some r } :=
  (h.regs (w := [.fault]) (by simp [unchangedBut_iff]) (by simp [unchangedBut_iff]) (by simp [same])).mono fun _ => .inl

/-- The spec's steps end in the same fault, or in blocks that agree. -/
def OutcomesAgree : Host.Outcome Tracked Fault Refusal → Host.Outcome Tracked Fault Refusal → Prop
  | .next t, .next v => TrackedAgree t v
  | .fault r, .fault q => r = q
  | _, _ => False

theorem trackedStep_agree (h : TrackedAgree t v) : OutcomesAgree (trackedStep t) (trackedStep v) := by
  have hmark : v.state.fault = t.state.fault := h.2.field .fault (by rintro ⟨⟩ ⟨⟩)
  cases hfault : t.state.fault with
  | some r =>
    rw [trackedStep_of_fault hfault, trackedStep_of_fault (hmark.trans hfault)]
    rfl
  | none =>
    rcases unsetRead_agree h with ⟨hread, hread'⟩ | ⟨p, q, hread, hread', hcell, -, -⟩
    · rw [trackedStep_of_set hfault hread, trackedStep_of_set (hmark.trans hfault) hread']
      obtain ⟨hset, ⟨r, hs, hu, -⟩ | ⟨s, u, hs, hu, hnext⟩⟩ := step_agree h hfault hread
      · rw [hs, hu]
        rfl
      · rw [hs, hu]
        exact ⟨hset, hnext⟩
    · rw [trackedStep_of_unset hfault hread, trackedStep_of_unset (hmark.trans hfault) hread', hcell]
      rfl

theorem faultedState_agree {P : Field → Prop} {s u : State} (h : AgreeAt P s u) (hpc : P .pc) (r : Fault) :
    AgreeAt P (faultedState r s) (faultedState r u) := by
  have hpc : u.pc = s.pc := h.field .pc hpc
  rw [faultedState, faultedState, fetchOpcode, fetchOpcode, hpc]
  exact withFault_agree (h.memRead s.pc) r

/-- The block that the host sees after a step, a fault included (R14, R22, R72). -/
theorem trackedHostStep_agree (h : TrackedAgree t v) : TrackedAgree (trackedHostStep t) (trackedHostStep v) := by
  have hmark : v.state.fault = t.state.fault := h.2.field .fault (by rintro ⟨⟩ ⟨⟩)
  cases hfault : t.state.fault with
  | some r =>
    rw [trackedHostStep_of_fault hfault, trackedHostStep_of_fault (hmark.trans hfault)]
    exact h
  | none =>
    rcases unsetRead_agree h with ⟨hread, hread'⟩ | ⟨p, q, hread, hread', hcell, hset, hstate⟩
    · rw [trackedHostStep_of_set hfault hread, trackedHostStep_of_set (hmark.trans hfault) hread']
      obtain ⟨hset, hstep⟩ := step_agree h hfault hread
      refine ⟨hset, ?_⟩
      rcases hstep with ⟨r, hs, hu, hsets⟩ | ⟨s, u, hs, hu, hnext⟩
      · obtain ⟨hpc, -⟩ := (unsetRead_eq_none t).mp hread
        simp only [hostStep, hfault, hmark, hs, hu, hsets, List.append_nil]
        exact faultedState_agree h.2 (fixedBy_cellField.mpr hpc) r
      · simp only [hostStep, hfault, hmark, hs, hu]
        exact hnext
    · rw [trackedHostStep_of_unset hfault hread, trackedHostStep_of_unset (hmark.trans hfault) hread']
      refine ⟨by rw [uninitState_set, uninitState_set, hset, h.1], ?_⟩
      rw [uninitState, uninitState, hcell]
      exact withFault_agree hstate _

/-! ### Runs -/

theorem trackedRun_agree (k : Nat) (h : TrackedAgree t v) : OutcomesAgree (trackedRun k t) (trackedRun k v) := by
  induction k generalizing t v with
  | zero => exact h
  | succ k ih =>
    have hstep := trackedStep_agree h
    unfold trackedRun
    cases ht : trackedStep t <;> cases hv : trackedStep v <;> rw [ht, hv] at hstep
    case next.next => exact ih hstep
    case fault.fault => exact hstep
    all_goals exact hstep.elim

theorem trackedHostRun_agree (k : Nat) (h : TrackedAgree t v) : TrackedAgree (trackedHostRun k t) (trackedHostRun k v) := by
  induction k generalizing t v with
  | zero => exact h
  | succ k ih => exact ih (trackedHostStep_agree h)

theorem cell_agree {α : Type} {r : RegCell} {value : State → α} (hset : v.set = t.set)
    (hvalue : r ∈ t.set → value v.state = value t.state) : v.cell r value = t.cell r value := by
  by_cases hr : r ∈ t.set
  · simp [Tracked.cell, hset, hr, hvalue hr]
  · simp [Tracked.cell, hset, hr]

/-- R42: the state record that the host reads shows the set cells only. -/
theorem view_agree (h : TrackedAgree t v) : v.view = t.view := by
  obtain ⟨hset, hagree⟩ := h
  obtain ⟨hcells, hb, hcycles, hfault, -, -, -⟩ := agreeOn_iff.mpr hagree
  simp only [Tracked.view, hb, hcycles, hfault, cell_agree hset (hcells .a), cell_agree hset (hcells .x),
    cell_agree hset (hcells .y), cell_agree hset (hcells .sp), cell_agree hset (hcells .pc), cell_agree hset (hcells .c),
    cell_agree hset (hcells .z), cell_agree hset (hcells .i), cell_agree hset (hcells .d), cell_agree hset (hcells .v),
    cell_agree hset (hcells .n)]

/-- Settles O59: agreement on the set cells is kept by every step of the spec and of the host, by induction on their number. -/
theorem unsetCellsNeverMatter : Obligations.UnsetCellsNeverMatter := by
  intro k t u hset hagree
  have h : TrackedAgree t u := ⟨hset.symm, agreeOn_iff.mp hagree⟩
  have hrun := trackedRun_agree k h
  have hhost := trackedHostRun_agree k h
  refine ⟨fun t' ht' => ?next, fun r hr => ?fault, hhost.1, agreeOn_iff.mpr hhost.2, view_agree hhost⟩
  case next =>
    rw [ht'] at hrun
    cases hu : trackedRun k u <;> rw [hu] at hrun
    case next u' => exact ⟨u', rfl, hrun.1, agreeOn_iff.mpr hrun.2⟩
    all_goals exact hrun.elim
  case fault =>
    rw [hr] at hrun
    cases hu : trackedRun k u <;> rw [hu] at hrun
    case fault q => exact congrArg _ hrun.symm
    all_goals exact hrun.elim

end Sys2Proof.Machine
end

section
/-! Arithmetic in numbers (41_arith_logic.md R102, R103), and the instructions that only copy, count or flag a register
(41_arith_logic.md R126 to R129, 43_flags_transfer_loadstore.md). -/

namespace Sys2Proof.Machine
open Safety

/-! ### The subtractor and signed overflow -/

/-- R108, as one update of the state. -/
theorem sbcByte_eq (value : Byte) (s : State) :
    sbcByte value s = { s with
      a := (sbc8 s.a value s.c).r
      c := decide ((s.a.toNat : Int) - value.toNat - (1 - s.c.toNat) ≥ 0)
      v := (s.a.getLsbD 7 != value.getLsbD 7) && (s.a.getLsbD 7 != (sbc8 s.a value s.c).r.getLsbD 7)
      z := decide ((sbc8 s.a value s.c).r.toNat = 0)
      n := decide ((sbc8 s.a value s.c).r.toNat ≥ 128) } := by
  rw [sbcByte, updateAZN_eq, sbc8_cout, sbc8_vout]

theorem byte_not_toNat (b : Byte) : (~~~b).toNat = 255 - b.toNat := BitVec.toNat_not

/-- R103: subtracting a byte is adding its complement, in the result and in both flags. -/
theorem sbc8_eq_adc8_not (a b : Byte) (cin : Bool) : sbc8 a b cin = adc8 a (~~~b) cin := by
  have hb := b.isLt
  have hnot := byte_not_toNat b
  have hr : (sbc8 a b cin).r = (adc8 a (~~~b) cin).r := by
    apply BitVec.eq_of_toNat_eq
    have hdiff := sbc8_r_toNat a b cin
    have hsum := adc8_r_toNat a (~~~b) cin
    omega
  have hcout : (sbc8 a b cin).cout = (adc8 a (~~~b) cin).cout := by
    rw [sbc8_cout, adc8_cout]
    exact decide_eq_decide.mpr (by omega)
  have hvout : (sbc8 a b cin).vout = (adc8 a (~~~b) cin).vout := by
    rw [sbc8_vout, adc8_vout, hr, BitVec.getLsbD_not]
    cases a.getLsbD 7 <;> cases b.getLsbD 7 <;> rfl
  calc sbc8 a b cin = ⟨(sbc8 a b cin).r, (sbc8 a b cin).cout, (sbc8 a b cin).vout⟩ := rfl
    _ = adc8 a (~~~b) cin := by rw [hr, hcout, hvout]

theorem sbcByte_eq_adcByte_not (b : Byte) (s : State) : sbcByte b s = adcByte (~~~b) s := by
  rw [sbcByte, adcByte, sbc8_eq_adc8_not]

/-- Settles O2: the subtractor's three outputs are the ones stated; SBC* runs the same subtractor, and it is the adder on the
complement. -/
theorem sbcSubtractsWithBorrow : Obligations.SbcSubtractsWithBorrow := by
  intro o b s value diff
  refine ⟨⟨(sbc8 s.a value s.c).r, sbc8_r_toNat _ _ _, ?_⟩, ⟨_, rfl, rfl⟩, ⟨_, exec_sbc (.imm b) s, ?_⟩⟩
  · rw [exec_sbc, sbcByte_eq, resolveValue_a, resolveValue_c]
  · rw [exec_adc]
    exact congrArg _ (sbcByte_eq_adcByte_not b s).symm

theorem byte_toInt (p : Byte) : p.toInt = if p.toNat ≥ 128 then (p.toNat : Int) - 256 else p.toNat := by
  rw [BitVec.toInt_eq_toNat_cond]
  split <;> split <;> omega

/-- R102: the adder's V is signed overflow. -/
theorem adc8_vout_iff (a b : Byte) (cin : Bool) :
    (adc8 a b cin).vout = true ↔ a.toInt + b.toInt + cin.toNat < -128 ∨ a.toInt + b.toInt + cin.toNat > 127 := by
  have ha := a.isLt
  have hb := b.isLt
  have hcin := Bool.toNat_le cin
  rw [adc8_vout, byte_bit7, byte_bit7, byte_bit7, adc8_r_toNat, byte_toInt, byte_toInt]
  simp only [Bool.and_eq_true, beq_iff_eq, bne_iff_ne, ne_eq, decide_eq_decide]
  split <;> split <;> omega

/-- R103: and so is the subtractor's. -/
theorem sbc8_vout_iff (a b : Byte) (cin : Bool) :
    (sbc8 a b cin).vout = true ↔
      a.toInt - b.toInt - (1 - cin.toNat) < -128 ∨ a.toInt - b.toInt - (1 - cin.toNat) > 127 := by
  have ha := a.isLt
  have hb := b.isLt
  have hcin := Bool.toNat_le cin
  have hr := sbc8_r_toNat a b cin
  rw [sbc8_vout, byte_bit7, byte_bit7, byte_bit7, byte_toInt, byte_toInt]
  simp only [Bool.and_eq_true, bne_iff_ne, ne_eq, decide_eq_decide]
  split <;> split <;> omega

/-- Settles O3: V is the unit's overflow output, `adc8_vout_iff` and `sbc8_vout_iff`, on the A and C that resolving the operand
leaves alone. -/
theorem overflowIsSignedOverflow : Obligations.OverflowIsSignedOverflow := by
  intro o s value
  refine ⟨⟨_, exec_adc o s, ?_⟩, ⟨_, exec_sbc o s, ?_⟩⟩
  · rw [← resolveValue_a o s, ← resolveValue_c o s]
    exact adc8_vout_iff _ _ _
  · rw [← resolveValue_a o s, ← resolveValue_c o s]
    exact sbc8_vout_iff _ _ _

/-! ### Registers and flags -/

/-- R100, as one update of the state. -/
theorem updateZN_eq (r : Byte) (s : State) :
    updateZN r s = { s with z := decide (r.toNat = 0), n := decide (r.toNat ≥ 128) } := by
  rw [← byte_beq_zero, ← byte_bit7]
  rfl

theorem byte_add_one_toNat (p : Byte) : (p + 1).toNat = (p.toNat + 1) % 256 := BitVec.toNat_add p 1

theorem byte_sub_one_toNat (p : Byte) : (p - 1).toNat = (p.toNat + 255) % 256 := by
  rw [BitVec.toNat_sub, Nat.add_comm]
  rfl

/-- Settles O11: each instruction is `updateZN` of the register's new value. -/
theorem incDecIndexRegisters : Obligations.IncDecIndexRegisters := fun s =>
  ⟨⟨s.x + 1, byte_add_one_toNat s.x, congrArg _ (updateZN_eq _ _)⟩,
    ⟨s.y + 1, byte_add_one_toNat s.y, congrArg _ (updateZN_eq _ _)⟩,
    ⟨s.x - 1, byte_sub_one_toNat s.x, congrArg _ (updateZN_eq _ _)⟩,
    ⟨s.y - 1, byte_sub_one_toNat s.y, congrArg _ (updateZN_eq _ _)⟩⟩

/-- Settles O26: each instruction is the one update of its flag. -/
theorem flagInstructionsWriteOneFlag : Obligations.FlagInstructionsWriteOneFlag := fun _ =>
  ⟨rfl, rfl, rfl, rfl, rfl, rfl, rfl⟩

/-- Settles O27: five transfers are `updateZN` or `updateAZN` of the register copied, and TXS is the copy alone. -/
theorem transfersCopyRegisters : Obligations.TransfersCopyRegisters := fun _ =>
  ⟨congrArg _ (updateZN_eq _ _), congrArg _ (updateZN_eq _ _), congrArg _ (updateZN_eq _ _), congrArg _ (updateAZN_eq _ _),
    rfl, congrArg _ (updateAZN_eq _ _)⟩

/-- Settles O31: the state after resolving the operand is the answer. -/
theorem noOperationsDoNothing : Obligations.NoOperationsDoNothing := fun _ _ _ => ⟨rfl, rfl, rfl, rfl⟩

end Sys2Proof.Machine
end

section
/-! Operands (30_encoding.md R71, R73, R79 to R88), and what loads, stores and read-modify-writes do at the effective address. -/

namespace Sys2Proof.Machine
open Safety

/-! ### Resolving an operand -/

theorem zext16_add_toNat (b r : Byte) : (zext16 (b + r)).toNat = (b.toNat + r.toNat) % 256 := by
  rw [zext16_toNat, BitVec.toNat_add]

theorem word_add_zext16_toNat (w : Word) (r : Byte) : (w + zext16 r).toNat = (w.toNat + r.toNat) % 65536 := by
  rw [BitVec.toNat_add, zext16_toNat]

theorem zext16_add_add_one_toNat (b r : Byte) : (zext16 (b + r + 1)).toNat = (b.toNat + r.toNat + 1) % 256 := by
  rw [zext16_toNat, byte_add_one_toNat, BitVec.toNat_add]
  omega

theorem zext16_add_one_toNat (b : Byte) : (zext16 (b + 1)).toNat = (b.toNat + 1) % 256 := by
  rw [zext16_toNat, byte_add_one_toNat]

/-- Settles O35: the pointer of IZX and of IZY is read as `readPair_eq` says. -/
theorem effectiveAddresses : Obligations.EffectiveAddresses := by
  intro b w s
  refine ⟨zext16_toNat b, zext16_add_toNat b s.x, zext16_add_toNat b s.y, rfl, word_add_zext16_toNat w s.x,
    word_add_zext16_toNat w s.y, ?izx, ?izy⟩
  case izx =>
    refine ⟨zext16 (b + s.x), zext16 (b + s.x + 1), _, _, zext16_add_toNat b s.x, zext16_add_add_one_toNat b s.x, rfl, rfl,
      ?_, ?_⟩
    · rw [effAddr, readPair_eq]
    · rw [effAddr, readPair_eq, ofHiLo_toNat]
  case izy =>
    refine ⟨zext16 b, zext16 (b + 1), _, _, zext16_toNat b, zext16_add_one_toNat b, rfl, rfl, ?_, ?_⟩
    · simp only [effAddr, readPair_eq]
    · simp only [effAddr, readPair_eq, word_add_zext16_toNat, ofHiLo_toNat]

theorem pointerEvents_spec (m : Mem) (s : State) :
    (pointerEvents m s).length = pointerReads m.mode ∧ ∀ e ∈ pointerEvents m s, isRead e = true := by
  cases m <;> simp [pointerEvents, Mem.mode, pointerReads, isRead]

theorem valueEvents_spec (o : Value) (s : State) :
    (valueEvents o s).length = pointerReads o.mode + (if o.mode = .imm then 0 else 1) ∧
      ∀ e ∈ valueEvents o s, isRead e = true := by
  cases o with
  | imm b => simp [valueEvents, Value.mode, pointerReads]
  | mem m =>
    obtain ⟨hlength, hreads⟩ := pointerEvents_spec m s
    refine ⟨?_, fun e he => ?_⟩
    · simp [valueEvents, Value.mode, hlength, mem_mode_ne_imm m]
    · rcases List.mem_append.mp he with he | he
      · exact hreads e he
      · rw [List.mem_singleton.mp he]; rfl

theorem jumpEvents_spec (j : JumpTarget) (s : State) :
    (jumpEvents j s).length = pointerReads j.mode ∧ ∀ e ∈ jumpEvents j s, isRead e = true := by
  cases j <;> simp [jumpEvents, JumpTarget.mode, pointerReads, isRead]

/-- Settles O36: each kind of operand records its own list of reads. -/
theorem resolvingOnlyReads : Obligations.ResolvingOnlyReads := by
  intro m o j s
  obtain ⟨hm, hmReads⟩ := pointerEvents_spec m s
  obtain ⟨ho, hoReads⟩ := valueEvents_spec o s
  obtain ⟨hj, hjReads⟩ := jumpEvents_spec j s
  exact ⟨⟨_, hm, hmReads, effAddr_snd m s⟩, ⟨_, ho, hoReads, resolveValue_snd o s⟩, ⟨_, hj, hjReads, jumpTarget_snd j s⟩,
    fun _ => rfl, rfl⟩

@[simp] theorem effAddr_a (m : Mem) (s : State) : (effAddr m s).2.a = s.a := by rw [effAddr_snd, record_a]
@[simp] theorem effAddr_x (m : Mem) (s : State) : (effAddr m s).2.x = s.x := by rw [effAddr_snd, record_x]
@[simp] theorem effAddr_y (m : Mem) (s : State) : (effAddr m s).2.y = s.y := by rw [effAddr_snd, record_y]
@[simp] theorem effAddr_c (m : Mem) (s : State) : (effAddr m s).2.c = s.c := by rw [effAddr_snd, record_c]
@[simp] theorem effAddr_memory (m : Mem) (s : State) : (effAddr m s).2.memory = s.memory := by
  rw [effAddr_snd, record_memory]
@[simp] theorem effAddr_ioRegion (m : Mem) (s : State) : (effAddr m s).2.ioRegion = s.ioRegion := by
  rw [effAddr_snd, record_ioRegion]

end Sys2Proof.Machine
end

section
/-! The bus traces of the shared operations, event by event, and what they say of the instructions that load, store, shift or
count at an effective address (20_memory.md R48, R52). -/

namespace Sys2Proof.Machine
open Safety

variable {s t : State} {es : List BusEvent}

/-! ### Traces -/

/-- What is stored after the pointer reads of a mode is stored from the state before them. -/
theorem BusTrace.stored_of_effAddr {m : Mem} (h : BusTrace (effAddr m s).2 es t) : Safety.stored s t (writesOf es) := by
  have hstored := h.stored
  rw [effAddr_snd] at hstored
  exact hstored

theorem shiftMem_busTrace (f : Byte → ShiftResult) (a : Word) (s : State) :
    BusTrace s [.read a (busValue a s), .write a (f (busValue a s)).r] (shiftMem f a s) :=
  have hread : BusTrace s [.read a (busValue a s)] { (memRead a s).2 with c := (f (busValue a s)).cout } :=
    (BusTrace.refl.read a).regs rfl rfl rfl
  (hread.write a _).regs rfl rfl rfl

theorem incMem_busTrace (a : Word) (s : State) :
    BusTrace s [.read a (busValue a s), .write a (busValue a s + 1)] (incMem a s) :=
  ((BusTrace.refl.read a).write a _).regs rfl rfl rfl

theorem decMem_busTrace (a : Word) (s : State) :
    BusTrace s [.read a (busValue a s), .write a (busValue a s - 1)] (decMem a s) :=
  ((BusTrace.refl.read a).write a _).regs rfl rfl rfl

theorem decMemQuiet_busTrace (a : Word) (s : State) :
    BusTrace s [.read a (busValue a s), .write a (busValue a s - 1)] (decMemQuiet a s) :=
  (BusTrace.refl.read a).write a _

/-! ### Read-modify-write -/

/-- R113, R115, R117, R119: which shifter and which fill bit each memory form applies. -/
theorem exec_shift_mem (m : Mem) (s : State) :
    exec (.asl (.mem m)) s = .next (shiftMem (fun v => shl v false) (effAddr m s).1 (effAddr m s).2) ∧
    exec (.lsr (.mem m)) s = .next (shiftMem (fun v => shr v false) (effAddr m s).1 (effAddr m s).2) ∧
    exec (.rol (.mem m)) s = .next (shiftMem (fun v => shl v s.c) (effAddr m s).1 (effAddr m s).2) ∧
    exec (.ror (.mem m)) s = .next (shiftMem (fun v => shr v s.c) (effAddr m s).1 (effAddr m s).2) := by
  rw [← effAddr_c m s]
  exact ⟨rfl, rfl, rfl, rfl⟩

/-- Settles O7: the four forms are `shiftMem` with four shifters; its trace is one read and one write. -/
theorem memoryShifts : Obligations.MemoryShifts := by
  intro m s ea old p hp
  obtain ⟨hasl, hlsr, hrol, hror⟩ := exec_shift_mem m s
  obtain ⟨f, hexec, hr, hc⟩ : ∃ f : Byte → ShiftResult, exec p.1 s = .next (shiftMem f ea (effAddr m s).2) ∧
      (f old).r.toNat = p.2.1 ∧ (f old).cout = p.2.2 := by
    simp only [List.mem_cons, List.not_mem_nil, or_false] at hp
    rcases hp with rfl | rfl | rfl | rfl
    · exact ⟨_, hasl, shl_r_toNat old false, rfl⟩
    · exact ⟨_, hlsr, shr_r_toNat old false, rfl⟩
    · exact ⟨_, hrol, shl_r_toNat old s.c, rfl⟩
    · exact ⟨_, hror, shr_r_toNat old s.c, rfl⟩
  have htrace := shiftMem_busTrace f ea (effAddr m s).2
  exact ⟨(f old).r, _, hr, hexec, htrace.stored_of_effAddr, htrace.events_eq, hc, byte_beq_zero _, byte_bit7 _,
    (unchangedBut_effAddr _ m s).trans (unchangedBut_shiftMem f ea _)⟩

/-- Settles O10: INC and DEC are one read and one write, and `updateZN` of the byte written. -/
theorem incDecMemory : Obligations.IncDecMemory := by
  intro m s ea old p hp
  simp only [List.mem_cons, List.not_mem_nil, or_false] at hp
  rcases hp with rfl | rfl
  · have htrace := incMem_busTrace ea (effAddr m s).2
    exact ⟨old + 1, _, byte_add_one_toNat old, rfl, htrace.stored_of_effAddr, htrace.events_eq, byte_beq_zero _, byte_bit7 _,
      (unchangedBut_effAddr _ m s).trans (unchangedBut_incMem ea _)⟩
  · have htrace := decMem_busTrace ea (effAddr m s).2
    exact ⟨old - 1, _, byte_sub_one_toNat old, rfl, htrace.stored_of_effAddr, htrace.events_eq, byte_beq_zero _, byte_bit7 _,
      (unchangedBut_effAddr _ m s).trans (unchangedBut_decMem ea _)⟩

/-! ### Loads, BIT and stores -/

theorem byte_and_beq_zero_iff (p q : Byte) :
    (p &&& q == 0) = true ↔ ∀ k, k < 8 → ¬(p.getLsbD k = true ∧ q.getLsbD k = true) := by
  rw [beq_iff_eq]
  constructor
  · intro h k _
    have hk := congrArg (BitVec.getLsbD · k) h
    simpa using hk
  · intro h
    refine BitVec.eq_of_getLsbD_eq fun k hk => ?_
    simpa using h k hk

/-- Settles O9: BIT is `bitByte` of the one byte read. -/
theorem bitTestsMemory : Obligations.BitTestsMemory := by
  intro m s ea byte
  refine ⟨_, exec_bit m s, effAddr_memory m s, rfl, ?_, rfl, rfl,
    (unchangedBut_resolveValue _ (.mem m) s).trans (unchangedBut_bitByte _ _)⟩
  rw [← resolveValue_a (.mem m) s]
  exact byte_and_beq_zero_iff _ _

/-- Settles O28: each load is `updateZN` of the byte, in the state with the register written. -/
theorem loadsSetRegisterZeroNegative : Obligations.LoadsSetRegisterZeroNegative := fun _ _ _ =>
  ⟨congrArg _ (updateAZN_eq _ _), congrArg _ (updateZN_eq _ _), congrArg _ (updateZN_eq _ _), congrArg _ (updateZN_eq _ _)⟩

/-- R176 to R178, R193: which byte each store writes. -/
theorem exec_store (m : Mem) (s : State) :
    exec (.sta m) s = .next (memWrite (effAddr m s).1 s.a (effAddr m s).2) ∧
    exec (.stx m) s = .next (memWrite (effAddr m s).1 s.x (effAddr m s).2) ∧
    exec (.sty m) s = .next (memWrite (effAddr m s).1 s.y (effAddr m s).2) ∧
    exec (.sax m) s = .next (memWrite (effAddr m s).1 (s.a &&& s.x) (effAddr m s).2) := by
  rw [← effAddr_a m s, ← effAddr_x m s, ← effAddr_y m s]
  exact ⟨rfl, rfl, rfl, rfl⟩

/-- Settles O29: the four stores are one write of four bytes. -/
theorem storesWriteOneByte : Obligations.StoresWriteOneByte := by
  intro m s ea p hp
  obtain ⟨hsta, hstx, hsty, hsax⟩ := exec_store m s
  have hexec : exec p.1 s = .next (memWrite ea p.2 (effAddr m s).2) := by
    simp only [List.mem_cons, List.not_mem_nil, or_false] at hp
    rcases hp with rfl | rfl | rfl | rfl
    · exact hsta
    · exact hstx
    · exact hsty
    · exact hsax
  have htrace : BusTrace (effAddr m s).2 [.write ea p.2] (memWrite ea p.2 (effAddr m s).2) := BusTrace.refl.write ea p.2
  exact ⟨_, hexec, htrace.stored_of_effAddr, htrace.events_eq,
    (unchangedBut_effAddr _ m s).trans (unchangedBut_memWrite _ ea _ _)⟩

/-- R59, R62: outside the I/O region the next read of an address gets the byte just written there. -/
theorem busValue_memWrite_same {a : Word} (v : Byte) (hram : isIo s.ioRegion a = false) :
    busValue a (memWrite a v s) = v := by
  rw [busValue_ram a (memWrite a v s) hram, memWrite_read, if_pos ⟨hram, rfl⟩]

/-- Settles O30: an opcode fetch and a load are both that next read. -/
theorem storedByteIsReadBack : Obligations.StoredByteIsReadBack := by
  intro m s hram
  obtain ⟨hsta, -, -, -⟩ := exec_store m s
  have hread : busValue (effAddr m s).1 (memWrite (effAddr m s).1 s.a (effAddr m s).2) = s.a :=
    busValue_memWrite_same s.a (by rwa [effAddr_ioRegion])
  refine ⟨_, _, hsta, fun hpc => ?fetch, rfl, hread⟩
  case fetch => rw [fetchOpcode, memRead_fst, hpc, hread]

end Sys2Proof.Machine
end

section
/-! Jumps, the stack and the trap (42_control_stack.md R144 to R152, 20_memory.md R55 to R58): the words and bytes that move
between PC, the status byte and the stack page. -/

namespace Sys2Proof.Machine
open Safety

variable {s t : State} {es : List BusEvent}

/-! ### JMP -/

/-- Settles O13: the pointer is read by `readPair`, whose second address `pointerHigh_toNat` places in the page of the first. -/
theorem jmpTargets : Obligations.JmpTargets := by
  intro w s
  refine ⟨rfl, (w &&& 0xFF00) ||| zext16 (lo8 (w + 1)), _, _, _, pointerHigh_toNat w, rfl, rfl, ofHiLo_toNat _ _, ?_⟩
  simp only [exec, execJmp, jumpTarget, readPair_eq]
  rfl

/-! ### Pushes and pulls -/

theorem BusTrace.push (b : Byte) (h : BusTrace s es t) :
    BusTrace s (es ++ [.write (stackAddr t.sp) b]) (push b t) :=
  (h.write (stackAddr t.sp) b).regs rfl rfl rfl

/-- R57: the high byte is written first, at the higher address. -/
theorem push16_busTrace (w : Word) (s : State) :
    BusTrace s [.write (stackAddr s.sp) (hi8 w), .write (stackAddr (s.sp - 1)) (lo8 w)] (push16 w s) := by
  have htrace := ((BusTrace.refl (s := s)).push (hi8 w)).push (lo8 w)
  rw [push_sp] at htrace
  exact htrace

theorem word_sub_one_toNat (w : Word) : 256 * (hi8 (w - 1)).toNat + (lo8 (w - 1)).toNat = (w.toNat + 65535) % 65536 := by
  have hsub : (w - 1).toNat = (w.toNat + 65535) % 65536 := by
    rw [BitVec.toNat_sub, Nat.add_comm]
    rfl
  rw [hi8_toNat, lo8_toNat, hsub]
  omega

/-- Settles O14: JSR is `push16` of PC - 1, and then the jump. -/
theorem jsrPushesReturnAddress : Obligations.JsrPushesReturnAddress := by
  intro target s
  have hpush := push16_busTrace (s.pc - 1) s
  have htrace : BusTrace s _ { push16 (s.pc - 1) s with pc := target } := hpush.regs rfl rfl rfl
  have hframe : unchangedBut [.pc, .sp] s (push16 (s.pc - 1) s) := (unchangedBut_push16 (s.pc - 1) s).mono (by simp)
  exact ⟨hi8 (s.pc - 1), lo8 (s.pc - 1), _, word_sub_one_toNat s.pc, exec_jsr target s, rfl, by simp only [push16_sp],
    htrace.events_eq, htrace.stored, hframe.trans (by simp [unchangedBut_iff])⟩

/-- Settles O15: RTS is `pop16`, and 1 added to its word. -/
theorem rtsReturns : Obligations.RtsReturns := by
  intro s
  refine ⟨_, _, (pop16 s).1 + 1, rfl, rfl, ?target, ?next⟩
  case target => rw [pop16_eq, BitVec.toNat_add, ofHiLo_toNat]; rfl
  case next => simp only [exec_rts, pop16_eq]

/-- Settles O20: PHA and PHP are `push` of two bytes. -/
theorem pushInstructions : Obligations.PushInstructions := by
  refine fun s => ⟨stackAddr_toNat s.sp, fun p hp => ?_⟩
  have hexec : exec p.1 s = .next (push p.2 s) := by
    rcases List.mem_pair.mp hp with rfl | rfl <;> rfl
  have htrace : BusTrace s [.write (stackAddr s.sp) p.2] (push p.2 s) := BusTrace.refl.push p.2
  exact ⟨_, hexec, push_sp _ s, htrace.events_eq, htrace.stored, unchangedBut_push _ s⟩

/-- Settles O21: PLA and PLP are `pop`, and what they do with its byte. -/
theorem pullInstructions : Obligations.PullInstructions := fun _ => ⟨congrArg _ (updateAZN_eq _ _), rfl⟩

/-! ### BRK and RTI -/

/-- The three writes of BRK (R147). -/
def brkPushes (s : State) : List BusEvent :=
  [.write (stackAddr s.sp) (hi8 s.pc), .write (stackAddr (s.sp - 1)) (lo8 s.pc),
    .write (stackAddr (s.sp - 2)) (pushedStatus s)]

theorem writesOf_brkPushes (s : State) :
    writesOf (brkPushes s) = [(stackAddr s.sp, hi8 s.pc), (stackAddr (s.sp - 1), lo8 s.pc),
      (stackAddr (s.sp - 2), pushedStatus s)] := rfl

/-- The state after them, in which the vector is read. -/
def afterBrkPushes (s : State) : State := push (pushedStatus s) (push16 s.pc s)

theorem brkPushes_busTrace (s : State) : BusTrace s (brkPushes s) (afterBrkPushes s) := by
  have htrace := (push16_busTrace s.pc s).push (pushedStatus s)
  rw [push16_sp] at htrace
  exact htrace

/-- The vector lies above the stack page, so the pushes leave its bytes alone. -/
theorem busValue_afterBrkPushes {a : Word} (ha : 512 ≤ a.toNat) (es : List BusEvent) :
    busValue a (record es (afterBrkPushes s)) =
      if isIo s.ioRegion a then Config.ioByte (s.events ++ brkPushes s ++ es) a else s.memory.read a.toNat := by
  have htrace := brkPushes_busTrace s
  have hmemory : (afterBrkPushes s).memory.read a.toNat = s.memory.read a.toNat := by
    refine stored_read_other htrace.stored a.toNat fun p hp _ => ?_
    obtain ⟨sp, hsp⟩ : ∃ sp, p.1 = stackAddr sp := by
      simp only [writesOf_brkPushes, List.mem_cons, List.not_mem_nil, or_false] at hp
      rcases hp with rfl | rfl | rfl <;> exact ⟨_, rfl⟩
    have hlt := sp.isLt
    rw [hsp, stackAddr_toNat]
    omega
  simp only [busValue, record_ioRegion, record_events, record_memory, htrace.ioRegion_eq, htrace.events_eq, hmemory]

theorem takeBreak_pc (s : State) :
    let lo := busValue Config.irqBrkVector (afterBrkPushes s)
    (takeBreak s).pc =
      ofHiLo (busValue (Config.irqBrkVector + 1) (record [.read Config.irqBrkVector lo] (afterBrkPushes s))) lo :=
  rfl

/-- Settles O17: `takeBreak` is the three pushes, the flags, and the vector read after the pushes. -/
theorem brkTakesTheTrap : Obligations.BrkTakesTheTrap := by
  intro s
  obtain ⟨hsp, hb, hi⟩ := takeBreak_written s
  have hlo := busValue_afterBrkPushes (s := s) (a := 0xFFFE) (by decide) []
  rw [record_nil, List.append_nil] at hlo
  have hhi := busValue_afterBrkPushes (s := s) (a := 0xFFFF) (by decide) [.read 0xFFFE (busValue 0xFFFE (afterBrkPushes s))]
  have hpushes : Safety.stored s (takeBreak s) (writesOf (brkPushes s)) := fun k => by
    rw [takeBreak_memory]
    exact (brkPushes_busTrace s).stored k
  exact ⟨pushedStatus s, _, _, _, takeBreak s, rfl, hlo, hhi, (congrArg BitVec.toNat (takeBreak_pc s)).trans (ofHiLo_toNat _ _),
    exec_brk s, rfl, hsp, hb, hi, takeBreak_events s, hpushes, unchangedBut_takeBreak s⟩

theorem byte_add_one_two (p : Byte) : p + 1 + 2 = p + 3 := by bv_omega

/-- Settles O18: `returnFromBreak` is `pop`, the status write, and `pop16`. -/
theorem rtiReturnsFromTheTrap : Obligations.RtiReturnsFromTheTrap := by
  intro s
  refine ⟨_, _, _, _, rfl, rfl, rfl, ofHiLo_toNat _ _, ?_⟩
  simp only [exec_rti, returnFromBreak, pop16_eq, pop_eq, writeStatus, add_one_one, byte_add_one_two]
  simp [busValue]

end Sys2Proof.Machine
end

section
/-! What a composition leaves (44_undocumented.md R185 to R191): its three accesses of the address, and outside the I/O region the
byte stored, which the second read gives back to the second primitive. -/

namespace Sys2Proof.Machine
open Safety

/-- A first primitive: one read of the address, then one write, of a byte that the read decides. -/
def Modifies (first : Word → State → State) (byte : State → Byte → Byte) : Prop :=
  ∀ a s, BusTrace s [.read a (busValue a s), .write a (byte s (busValue a s))] (first a s)

/-- A second primitive: it has its byte already, and no access is left. -/
def LeavesBus (second : Byte → State → State) : Prop :=
  ∀ v s, (second v s).memory = s.memory ∧ (second v s).ioRegion = s.ioRegion ∧ (second v s).events = s.events

variable {first : Word → State → State} {second : Byte → State → State} {byte : State → Byte → Byte}

/-- R185: read, write, read. -/
theorem compose_busTrace (hfirst : Modifies first byte) (hsecond : LeavesBus second) (m : Mem) (s : State) :
    let ea := (effAddr m s).1
    let old := busValue ea (effAddr m s).2
    BusTrace (effAddr m s).2
      [.read ea old, .write ea (byte (effAddr m s).2 old), .read ea (busValue ea (first ea (effAddr m s).2))]
      (compose first second m s) := by
  intro ea old
  obtain ⟨hmemory, hregion, hevents⟩ := hsecond (busValue ea (first ea (effAddr m s).2))
    (memRead ea (first ea (effAddr m s).2)).2
  exact ((hfirst ea (effAddr m s).2).read ea).regs hmemory hregion hevents

/-- R48: outside the I/O region the second read gives the byte just written. -/
theorem busValue_modified (hfirst : Modifies first byte) {a : Word} {s : State} (hram : isIo s.ioRegion a = false) :
    busValue a (first a s) = byte s (busValue a s) := by
  have htrace := hfirst a s
  rw [busValue_ram a _ (by rwa [htrace.ioRegion_eq]), htrace.stored a.toNat]
  exact if_pos ⟨hram, rfl⟩

theorem aslMem_modifies : Modifies aslMem (fun _ v => (shl v false).r) := fun a s =>
  shiftMem_busTrace (fun v => shl v false) a s

theorem lsrMem_modifies : Modifies lsrMem (fun _ v => (shr v false).r) := fun a s =>
  shiftMem_busTrace (fun v => shr v false) a s

theorem rolMem_modifies : Modifies rolMem (fun s v => (shl v s.c).r) := fun a s =>
  shiftMem_busTrace (fun v => shl v s.c) a s

theorem rorMem_modifies : Modifies rorMem (fun s v => (shr v s.c).r) := fun a s =>
  shiftMem_busTrace (fun v => shr v s.c) a s

theorem decMemQuiet_modifies : Modifies decMemQuiet (fun _ v => v - 1) := decMemQuiet_busTrace

theorem incMem_modifies : Modifies incMem (fun _ v => v + 1) := incMem_busTrace

theorem updateAZN_leavesBus (f : Byte → Byte → Byte) : LeavesBus (fun v s => updateAZN (f s.a v) s) :=
  fun _ _ => ⟨rfl, rfl, rfl⟩

theorem adcByte_leavesBus : LeavesBus adcByte := fun _ _ => ⟨rfl, rfl, rfl⟩

theorem sbcByte_leavesBus : LeavesBus sbcByte := fun _ _ => ⟨rfl, rfl, rfl⟩

theorem cmpByte_leavesBus : LeavesBus cmpByte := fun _ _ => ⟨rfl, rfl, rfl⟩

/-- Settles O33: each composition is `compose` of two such primitives. -/
theorem compositionsReadWriteRead : Obligations.CompositionsReadWriteRead := by
  intro m s ea i hi
  obtain ⟨first, second, byte, hexec, hfirst, hsecond⟩ : ∃ first second byte,
      exec i s = .next (compose first second m s) ∧ Modifies first byte ∧ LeavesBus second := by
    simp only [List.mem_cons, List.not_mem_nil, or_false] at hi
    rcases hi with rfl | rfl | rfl | rfl | rfl | rfl
    · exact ⟨aslMem, oraByte, _, rfl, aslMem_modifies, updateAZN_leavesBus or8⟩
    · exact ⟨lsrMem, eorByte, _, rfl, lsrMem_modifies, updateAZN_leavesBus xor8⟩
    · exact ⟨rolMem, andByte, _, rfl, rolMem_modifies, updateAZN_leavesBus and8⟩
    · exact ⟨rorMem, adcByte, _, rfl, rorMem_modifies, adcByte_leavesBus⟩
    · exact ⟨decMemQuiet, cmpByte, _, rfl, decMemQuiet_modifies, cmpByte_leavesBus⟩
    · exact ⟨incMem, sbcByte, _, rfl, incMem_modifies, sbcByte_leavesBus⟩
  have htrace := compose_busTrace hfirst hsecond m s
  exact ⟨_, _, _, hexec, htrace.events_eq, htrace.stored_of_effAddr,
    fun hram => busValue_modified hfirst (by rwa [effAddr_ioRegion])⟩

/-- Outside the I/O region the second primitive works on the byte that the first one stored. -/
theorem compose_of_ram (hfirst : Modifies first byte) {m : Mem} {s : State}
    (hram : isIo s.ioRegion (effAddr m s).1 = false) :
    let ea := (effAddr m s).1
    let r := byte (effAddr m s).2 (busValue ea (effAddr m s).2)
    compose first second m s = second r (record [.read ea r] (first ea (effAddr m s).2)) := by
  intro ea r
  have hread : busValue ea (first ea (effAddr m s).2) = r := busValue_modified hfirst (by rwa [effAddr_ioRegion])
  simp only [compose, memRead_fst, memRead_snd]
  rw [hread]

/-- And that byte is the only one stored. -/
theorem stored_compose (hfirst : Modifies first byte) (hsecond : LeavesBus second) (m : Mem) (s : State) :
    let ea := (effAddr m s).1
    stored s (compose first second m s) [(ea, byte (effAddr m s).2 (busValue ea (effAddr m s).2))] :=
  (compose_busTrace hfirst hsecond m s).stored_of_effAddr

theorem byte_bit0 (p : Byte) : p.getLsbD 0 = decide (p.toNat % 2 = 1) := by
  revert p; decide

theorem byte_bit0_toNat (p : Byte) : (p.getLsbD 0).toNat = p.toNat % 2 := by
  revert p; decide

/-- R186 to R188: a shift and then a logic instruction, outside the I/O region. -/
theorem compose_shift_logic_of_ram (g : Byte → Byte → Byte) (hfirst : Modifies first byte)
    (hframe : ∀ a s, unchangedBut [.c, .z, .n] s (first a s)) {m : Mem} {s : State}
    (hram : isIo s.ioRegion (effAddr m s).1 = false) :
    let ea := (effAddr m s).1
    let r := byte (effAddr m s).2 (busValue ea (effAddr m s).2)
    let t := compose first (fun v s => updateAZN (g s.a v) s) m s
    stored s t [(ea, r)] ∧ t.a = g s.a r ∧ t.c = (first ea (effAddr m s).2).c ∧ unchangedBut [.a, .c, .z, .n] s t := by
  intro ea r t
  have ht : t = updateAZN (g (first ea (effAddr m s).2).a r) (record [.read ea r] (first ea (effAddr m s).2)) :=
    compose_of_ram hfirst hram
  have ha : (first ea (effAddr m s).2).a = s.a := (hframe ea _ .a (by simp)).trans (effAddr_a m s)
  refine ⟨stored_compose hfirst (updateAZN_leavesBus g) m s, by rw [ht, updateAZN_a, ha], by rw [ht]; rfl, ?_⟩
  exact unchangedBut_compose m s (fun a s => (hframe a s).mono (by simp))
    fun _ _ => (unchangedBut_updateAZN _ _).mono (by simp)

/-- Settles O34: the byte of each first primitive, and the second primitive's update on it. -/
theorem compositionResultsInRam : Obligations.CompositionResultsInRam := by
  intro m s ea old hram
  refine ⟨?slo, ?sre, ?rla, ?rra, ?dcp, ?isc⟩
  case slo =>
    obtain ⟨hstored, ha, hc, hframe⟩ :=
      compose_shift_logic_of_ram or8 aslMem_modifies (fun _ _ => unchangedBut_shiftMem _ _ _) hram
    exact ⟨_, _, shl_r_toNat _ false, rfl, hstored, ha, hc.trans (byte_bit7 _), hframe⟩
  case sre =>
    obtain ⟨hstored, ha, hc, hframe⟩ :=
      compose_shift_logic_of_ram xor8 lsrMem_modifies (fun _ _ => unchangedBut_shiftMem _ _ _) hram
    exact ⟨_, _, shr_r_toNat _ false, rfl, hstored, ha, hc.trans (byte_bit0 _), hframe⟩
  case rla =>
    obtain ⟨hstored, ha, hc, hframe⟩ :=
      compose_shift_logic_of_ram and8 rolMem_modifies (fun _ _ => unchangedBut_shiftMem _ _ _) hram
    exact ⟨_, _, by rw [shl_r_toNat, effAddr_c], rfl, hstored, ha, hc.trans (byte_bit7 _), hframe⟩
  case rra =>
    have ht := compose_of_ram (second := adcByte) rorMem_modifies hram
    have hframe : unchangedBut [.a, .c, .v, .z, .n] s (compose rorMem adcByte m s) :=
      unchangedBut_compose m s (fun _ _ => (unchangedBut_shiftMem _ _ _).mono (by simp)) unchangedBut_adcByte
    have hcarry : (rorMem ea (effAddr m s).2).c.toNat = old % 2 := byte_bit0_toNat _
    have ha : (rorMem ea (effAddr m s).2).a = s.a := effAddr_a m s
    refine ⟨_, compose rorMem adcByte m s, by rw [shr_r_toNat, effAddr_c], rfl,
      stored_compose rorMem_modifies adcByte_leavesBus m s, ?_, ?_, hframe⟩
    · rw [ht, adcByte_a, adc8_r_toNat, record_a, record_c, ha, hcarry]
    · rw [ht, adcByte_eq, record_a, record_c, ha, hcarry]
  case dcp =>
    have ht := compose_of_ram (second := cmpByte) decMemQuiet_modifies hram
    have hframe : unchangedBut [.c, .z, .n] s (compose decMemQuiet cmpByte m s) :=
      unchangedBut_compose m s (fun _ _ => unchangedBut_decMemQuiet _ _ _) fun _ t => unchangedBut_compareBytes t.a _ t
    have ha : (decMemQuiet ea (effAddr m s).2).a = s.a := effAddr_a m s
    refine ⟨_, compose decMemQuiet cmpByte m s, byte_sub_one_toNat _, rfl,
      stored_compose decMemQuiet_modifies cmpByte_leavesBus m s, ?_, ?_, hframe⟩
    · rw [ht, cmpByte, compareBytes_eq, record_a, ha]
    · rw [ht, cmpByte, compareBytes_eq, record_a, ha]
  case isc =>
    have ht := compose_of_ram (second := sbcByte) incMem_modifies hram
    have hframe : unchangedBut [.a, .c, .v, .z, .n] s (compose incMem sbcByte m s) :=
      unchangedBut_compose m s (fun _ _ => (unchangedBut_incMem _ _).mono (by simp)) unchangedBut_sbcByte
    have hcarry : (incMem ea (effAddr m s).2).c = s.c := effAddr_c m s
    have ha : (incMem ea (effAddr m s).2).a = s.a := effAddr_a m s
    refine ⟨_, compose incMem sbcByte m s, byte_add_one_toNat _, rfl,
      stored_compose incMem_modifies sbcByte_leavesBus m s, ?_, ?_, hframe⟩
    · rw [ht, sbcByte_a, sbc8_r_toNat, record_a, record_c, ha, hcarry]
    · rw [ht, sbcByte_eq, record_a, record_c, ha, hcarry]

end Sys2Proof.Machine
end

section
/-! What an `UninitRead` leaves (10_state.md R22, 60_exceptions.md R202, R214). Each read of a cell lies on the instruction's own
trace: so many events after its start, with the effects of what stands before it and no others. That is shown for the groups
of reads that `cellReads` is built of, and then for every instruction: `cellReads_readPoint`. -/

namespace Sys2Proof.Machine
open Safety

variable {set : List RegCell} {s : State} {p : CellRead} {i : Instr}

/-! ### Reads before the instruction has any effect but reads of the bus -/

/-- A read of a cell after `n` bus reads, with nothing else done; the instruction goes on from there to `target`. -/
def PlainRead (s : State) (n : Nat) (target : State) (p : CellRead) : Prop :=
  p.set = [] ∧ unchangedBut [] s p.state ∧
    (∃ es, BusTrace s es p.state ∧ es.length = n ∧ writesOf es = []) ∧ ∃ es, BusTrace p.state es target

theorem PlainRead.trans {n : Nat} {target target' : State} {es : List BusEvent} (h : PlainRead s n target p)
    (htrace : BusTrace target es target') : PlainRead s n target' p := by
  obtain ⟨hset, hframe, hbefore, later, hlater⟩ := h
  exact ⟨hset, hframe, hbefore, _, hlater.trans htrace⟩

theorem writesOf_eq_nil_of_reads {es : List BusEvent} (h : ∀ e ∈ es, isRead e = true) : writesOf es = [] := by
  refine List.filterMap_eq_nil_iff.mpr fun e he => ?_
  cases e with
  | read a w => rfl
  | write a w => exact absurd (h _ he) Bool.false_ne_true

theorem effAddr_busTrace (m : Mem) (s : State) : BusTrace s (pointerEvents m s) (effAddr m s).2 := by
  cases m with
  | izx b | izy b => exact (BusTrace.refl.read _).read _
  | _ => exact .refl

theorem resolveValue_busTrace (o : Value) (s : State) : BusTrace s (valueEvents o s) (resolveValue o s).2 := by
  cases o with
  | imm b => exact .refl
  | mem m => exact (effAddr_busTrace m s).read _

theorem plainRead_self {cells : List RegCell} (hp : p ∈ readsAt cells [] s) : PlainRead s 0 s p := by
  obtain ⟨-, hset, rfl⟩ := mem_readsAt.mp hp
  exact ⟨hset, unchangedBut_refl _ _, ⟨[], .refl, rfl, rfl⟩, [], .refl⟩

theorem plainRead_effAddr {m : Mem} {cells : List RegCell} (hp : p ∈ readsAt cells [] (effAddr m s).2) :
    PlainRead s (pointerReads m.mode) (effAddr m s).2 p := by
  obtain ⟨-, hset, hstate⟩ := mem_readsAt.mp hp
  obtain ⟨hlength, hreads⟩ := pointerEvents_spec m s
  rw [PlainRead, hstate]
  exact ⟨hset, unchangedBut_effAddr _ m s, ⟨_, effAddr_busTrace m s, hlength, writesOf_eq_nil_of_reads hreads⟩, [], .refl⟩

theorem plainRead_resolveValue {o : Value} {cells : List RegCell} (hp : p ∈ readsAt cells [] (resolveValue o s).2) :
    PlainRead s (pointerReads o.mode + if o.mode = .imm then 0 else 1) (resolveValue o s).2 p := by
  obtain ⟨-, hset, hstate⟩ := mem_readsAt.mp hp
  obtain ⟨hlength, hreads⟩ := valueEvents_spec o s
  rw [PlainRead, hstate]
  exact ⟨hset, unchangedBut_resolveValue _ o s, ⟨_, resolveValue_busTrace o s, hlength, writesOf_eq_nil_of_reads hreads⟩, [],
    .refl⟩

/-- R80 to R88: the index register is read before the pointer, but in mode IZY after it. -/
theorem plainRead_memReads {m : Mem} (hp : p ∈ memReads m s) :
    p.cell ∈ indexCells m.mode ∧ PlainRead s (if m.mode = .izy then 2 else 0) (effAddr m s).2 p := by
  refine ⟨memReads_cells m s ▸ List.mem_map_of_mem hp, ?_⟩
  cases m with
  | zp _ | abs _ => cases hp
  | izy b => exact plainRead_effAddr (m := .izy b) hp
  | _ => exact (plainRead_self hp).trans (effAddr_busTrace _ s)

/-! ### The first read of an unset cell -/

/-- `p` is the first of the reads whose cell is not set. -/
def FirstUnset (set : List RegCell) (reads : List CellRead) (p : CellRead) : Prop :=
  reads.find? (fun q => decide (q.cell ∉ set)) = some p

theorem FirstUnset.mem {reads : List CellRead} (h : FirstUnset set reads p) : p ∈ reads := List.mem_of_find?_eq_some h

theorem FirstUnset.append {reads reads' : List CellRead} (h : FirstUnset set (reads ++ reads') p) :
    FirstUnset set reads p ∨ (FirstUnset set reads' p ∧ p.cell ∉ reads.map CellRead.cell) := by
  unfold FirstUnset at h ⊢
  rw [List.find?_append, Option.or_eq_some_iff] at h
  refine h.imp_right fun ⟨hnone, hsome⟩ => ⟨hsome, fun hmem => ?_⟩
  obtain ⟨q, hq, hcell⟩ := List.mem_map.mp hmem
  have hset : q.cell ∈ set := by simpa using List.find?_eq_none.mp hnone q hq
  exact absurd (hcell ▸ hset) (by simpa using List.find?_some hsome)

/-- The events before the first read of a cell by an operation that reads its index register, and its other cells when it has
issued `n` events. -/
def eventsOfRead (m : Mode) (n : Nat) (r : RegCell) : Nat :=
  if r ∈ indexCells m then (if m = .izy then 2 else 0) else n

theorem plainRead_onAddress {m : Mem} {cells : List RegCell} (h : FirstUnset set (onAddress m cells s) p) :
    (p.cell ∈ indexCells m.mode ∨ p.cell ∈ cells) ∧
      PlainRead s (eventsOfRead m.mode (pointerReads m.mode) p.cell) (effAddr m s).2 p := by
  rcases h.append with hindex | ⟨hcells, hnot⟩
  · obtain ⟨hcell, hplain⟩ := plainRead_memReads hindex.mem
    exact ⟨.inl hcell, by rwa [eventsOfRead, if_pos hcell]⟩
  · rw [memReads_cells] at hnot
    obtain ⟨hcell, -, -⟩ := mem_readsAt.mp hcells.mem
    exact ⟨.inr hcell, by rw [eventsOfRead, if_neg hnot]; exact plainRead_effAddr hcells.mem⟩

theorem plainRead_onValue {o : Value} {cells : List RegCell} (h : FirstUnset set (onValue o cells s) p) :
    (p.cell ∈ indexCells o.mode ∨ p.cell ∈ cells) ∧
      PlainRead s (eventsOfRead o.mode (pointerReads o.mode + if o.mode = .imm then 0 else 1) p.cell)
        (resolveValue o s).2 p := by
  cases o with
  | imm b =>
    obtain ⟨hcell, -, -⟩ := mem_readsAt.mp h.mem
    exact ⟨.inr hcell, plainRead_self h.mem⟩
  | mem m =>
    rcases h.append with hindex | ⟨hcells, hnot⟩
    · obtain ⟨hcell, hplain⟩ := plainRead_memReads hindex.mem
      refine ⟨.inl hcell, ?_⟩
      rw [eventsOfRead, Value.mode, if_pos hcell]
      exact hplain.trans (BusTrace.refl.read (effAddr m s).1)
    · rw [valueReads, memReads_cells] at hnot
      obtain ⟨hcell, -, -⟩ := mem_readsAt.mp hcells.mem
      refine ⟨.inr hcell, ?_⟩
      rw [eventsOfRead, Value.mode, if_neg hnot]
      exact plainRead_resolveValue hcells.mem

/-! ### What stands before a read -/

/-- The compositions, each with the instruction that is its first primitive and the cells that this one sets (R185 to R191). -/
def firstPrimitives (m : Mem) : List (Instr × Instr × List RegCell) :=
  [(.slo m, .asl (.mem m), [.c, .z, .n]), (.sre m, .lsr (.mem m), [.c, .z, .n]), (.rla m, .rol (.mem m), [.c, .z, .n]),
    (.rra m, .ror (.mem m), [.c, .z, .n]), (.dcp m, .dec m, []), (.isc m, .inc m, [.z, .n])]

/-- The read stands after the first primitive of the composition, whose flags it has set (DCP's sets none, R190). -/
def AfterFirstPrimitive (i : Instr) (s : State) (p : CellRead) : Prop :=
  ∀ m : Mem, ∀ q ∈ firstPrimitives m, i = q.1 →
    p.set = q.2.2 ∧ ∃ w, exec q.2.1 s = .next w ∧ p.state.c = w.c ∧
      p.state.z = (if i.op = .dcp then s.z else w.z) ∧ p.state.n = (if i.op = .dcp then s.n else w.n)

theorem firstPrimitives_composition {m : Mem} {q : Instr × Instr × List RegCell} (hq : q ∈ firstPrimitives m) :
    q.1.op ∈ compositions ∧ q.1.mode = m.mode := by
  simp only [firstPrimitives, List.mem_cons, List.not_mem_nil, or_false] at hq
  rcases hq with rfl | rfl | rfl | rfl | rfl | rfl <;> simp [Instr.op, Instr.mode, compositions]

/-- A composition has one first primitive. -/
theorem firstPrimitives_unique {m m' : Mem} {q q' : Instr × Instr × List RegCell} (hq : q ∈ firstPrimitives m)
    (hq' : q' ∈ firstPrimitives m') (h : q.1 = q'.1) : q = q' := by
  simp only [firstPrimitives, List.mem_cons, List.not_mem_nil, or_false] at hq hq'
  rcases hq with rfl | rfl | rfl | rfl | rfl | rfl <;> rcases hq' with rfl | rfl | rfl | rfl | rfl | rfl <;> cases h <;> rfl

/-- What the instruction has done before the read, when it has stored `ws`: nothing; for BRK, the push of PC; for a
composition, its first primitive. -/
inductive EffectsBefore (i : Instr) (s : State) (p : CellRead) : List (Word × Byte) → Prop
  | none (hset : p.set = []) (hframe : unchangedBut [] s p.state) (hbrk : i.op = .brk → p.cell = .sp) :
      EffectsBefore i s p []
  | pushes {ws : List (Word × Byte)} (hi : i = .brk) (hcell : p.cell ≠ .sp) (hset : p.set = [])
      (hstate : p.state = push16 s.pc s) : EffectsBefore i s p ws
  | first {ws : List (Word × Byte)} (hws : ws ≠ []) (hi : i.op ∈ compositions) (hcell : p.cell ∉ p.set)
      (hframe : unchangedBut [.c, .z, .n] s p.state) (hafter : AfterFirstPrimitive i s p) : EffectsBefore i s p ws

/-- The read lies on the trace of the instruction, where `eventsBeforeRead` says. -/
def ReadPoint (i : Instr) (s : State) (p : CellRead) : Prop :=
  ∃ es later v, exec i s = .next v ∧ BusTrace s es p.state ∧ BusTrace p.state later v ∧
    es.length = eventsBeforeRead i p.cell ∧ EffectsBefore i s p (writesOf es)

theorem PlainRead.readPoint {n : Nat} {target v : State} {later : List BusEvent} (h : PlainRead s n target p)
    (hexec : exec i s = .next v) (hlater : BusTrace target later v) (hcount : n = eventsBeforeRead i p.cell)
    (hbrk : i.op = .brk → p.cell = .sp) : ReadPoint i s p := by
  obtain ⟨hset, hframe, ⟨es, htrace, hlength, hwrites⟩, later', hrest⟩ := h
  exact ⟨es, _, v, hexec, htrace, hrest.trans hlater, hlength.trans hcount, hwrites ▸ .none hset hframe hbrk⟩

/-- The events of an instruction between its pointer reads and its first read of a cell that is no index register. -/
def eventsAfterPointer (i : Instr) (r : RegCell) : Nat :=
  if i.op ∈ compositions then (if r = .c ∧ i.op ∈ ([.rla, .rra] : List Op) then 0 else 3)
  else if i.op = .brk then (if r = .sp then 0 else 2)
  else if i.op ∈ ([.adc, .sbc, .and, .ora, .eor, .cmp, .cpx, .cpy, .bit] : List Op) ∧ i.mode ≠ .imm then 1
  else 0

theorem eventsBeforeRead_eq (i : Instr) (r : RegCell) :
    eventsBeforeRead i r = eventsOfRead i.mode (pointerReads i.mode + eventsAfterPointer i r) r := rfl

theorem eventsOfRead_congr {m : Mode} {n k : Nat} {r : RegCell} (h : r ∉ indexCells m → n = k) :
    eventsOfRead m n r = eventsOfRead m k r := by
  unfold eventsOfRead
  split
  · rfl
  · exact h ‹_›

theorem readPoint_of_value {o : Value} {cells : List RegCell} {v : State} {later : List BusEvent}
    (h : FirstUnset set (onValue o cells s) p) (hexec : exec i s = .next v)
    (hlater : BusTrace (resolveValue o s).2 later v) (hmode : i.mode = o.mode)
    (hcount : ∀ r ∈ cells, eventsAfterPointer i r = if o.mode = .imm then 0 else 1) (hbrk : i.op ≠ .brk) :
    ReadPoint i s p := by
  obtain ⟨hcell, hplain⟩ := plainRead_onValue h
  refine hplain.readPoint hexec hlater ?_ fun hop => absurd hop hbrk
  rw [eventsBeforeRead_eq, hmode]
  exact eventsOfRead_congr fun hindex => by rw [hcount _ (hcell.resolve_left hindex)]

theorem readPoint_of_mem {m : Mem} {cells : List RegCell} {v : State} {later : List BusEvent}
    (h : FirstUnset set (onAddress m cells s) p) (hexec : exec i s = .next v)
    (hlater : BusTrace (effAddr m s).2 later v) (hmode : i.mode = m.mode)
    (hcount : ∀ r ∈ cells, eventsAfterPointer i r = 0) (hbrk : i.op ≠ .brk) : ReadPoint i s p := by
  obtain ⟨hcell, hplain⟩ := plainRead_onAddress h
  refine hplain.readPoint hexec hlater ?_ fun hop => absurd hop hbrk
  rw [eventsBeforeRead_eq, hmode]
  exact eventsOfRead_congr fun hindex => by rw [hcount _ (hcell.resolve_left hindex), Nat.add_zero]

/-- An instruction with no address: its cells are read first of all. -/
theorem readPoint_of_self {cells : List RegCell} {v : State} (h : FirstUnset set (readsAt cells [] s) p)
    (hexec : exec i s = .next v) (hcount : ∀ r, eventsBeforeRead i r = 0) (hbrk : i.op ≠ .brk) : ReadPoint i s p := by
  obtain ⟨later, hlater⟩ := exec_busTrace hexec
  exact (plainRead_self h.mem).readPoint hexec hlater (hcount _).symm fun hop => absurd hop hbrk

/-- The first primitive of a composition, as the instruction that it is; DCP's sets no flag (R190). -/
def FirstPrimitiveIs (i firstInstr : Instr) (first : Word → State → State) (m : Mem) (s : State) : Prop :=
  let t := first (effAddr m s).1 (effAddr m s).2
  ∃ w, exec firstInstr s = .next w ∧ t.c = w.c ∧ t.z = (if i.op = .dcp then s.z else w.z) ∧
    t.n = (if i.op = .dcp then s.n else w.n)

/-- A composition: its second group of cells is read after the three accesses of the address. -/
theorem readPoint_of_compose {first : Word → State → State} {second : Byte → State → State} {byte : State → Byte → Byte}
    {firstInstr : Instr} {firstCells firstSets secondCells : List RegCell} {m : Mem}
    (h : FirstUnset set (onCompose first firstCells firstSets secondCells m s) p)
    (hexec : exec i s = .next (compose first second m s)) (hfirst : Modifies first byte) (hsecond : LeavesBus second)
    (hprim : (i, firstInstr, firstSets) ∈ firstPrimitives m) (hflags : FirstPrimitiveIs i firstInstr first m s)
    (hframe : ∀ a t, unchangedBut [.c, .z, .n] t (first a t)) (hcountFirst : ∀ r ∈ firstCells, eventsAfterPointer i r = 0)
    (hcountSecond : ∀ r ∈ secondCells, r ∉ firstSets ∧ eventsAfterPointer i r = 3) : ReadPoint i s p := by
  obtain ⟨hop, hmode⟩ := firstPrimitives_composition hprim
  have hbrk : i.op ≠ .brk := fun hop' => absurd (hop' ▸ hop) (by decide)
  have htrace := compose_busTrace hfirst hsecond m s
  rcases h.append with haddress | ⟨hcells, hnot⟩
  · exact readPoint_of_mem haddress hexec htrace hmode hcountFirst hbrk
  · obtain ⟨hcell, hset, hstate⟩ := mem_readsAt.mp hcells.mem
    obtain ⟨hsets, hcount⟩ := hcountSecond _ hcell
    obtain ⟨hlength, -⟩ := pointerEvents_spec m s
    rw [onAddress_cells, List.mem_append, not_or] at hnot
    obtain ⟨hindex, -⟩ := hnot
    have hread := (effAddr_busTrace m s).trans ((hfirst (effAddr m s).1 (effAddr m s).2).read (effAddr m s).1)
    have hlater : BusTrace p.state [] (compose first second m s) := by
      obtain ⟨hmemory, hregion, hevents⟩ := hsecond (busValue (effAddr m s).1 (first (effAddr m s).1 (effAddr m s).2)) p.state
      rw [hstate] at hmemory hregion hevents ⊢
      exact BusTrace.refl.regs hmemory hregion hevents
    have hafter : AfterFirstPrimitive i s p := fun m' q hq hi => by
      obtain rfl := firstPrimitives_unique hprim hq hi
      rw [hset, hstate]
      exact ⟨rfl, hflags⟩
    refine ⟨_, _, _, hexec, hstate ▸ hread, hlater, ?_, .first ?_ hop (hset ▸ hsets) ?_ hafter⟩
    · rw [eventsBeforeRead_eq, eventsOfRead, hmode, if_neg hindex, hcount, List.length_append, hlength]
      rfl
    · simp [writesOf]
    · rw [hstate]
      exact ((unchangedBut_effAddr _ m s).trans (hframe _ _)).trans (unchangedBut_record _ _ _)

/-- BRK: SP is read first, and the flags when PC is pushed (R147). -/
theorem readPoint_brk (h : FirstUnset set (cellReads .brk s) p) : ReadPoint .brk s p := by
  rcases h.append with hsp | ⟨hflags, hnot⟩
  · obtain ⟨hcell, -, -⟩ := mem_readsAt.mp hsp.mem
    have hcell : p.cell = .sp := List.mem_singleton.mp hcell
    obtain ⟨later, hlater⟩ := exec_busTrace (exec_brk s)
    exact (plainRead_self hsp.mem).readPoint (exec_brk s) hlater (by rw [hcell]; rfl) fun _ => hcell
  · obtain ⟨hcell, hset, hstate⟩ := mem_readsAt.mp hflags.mem
    have hne : p.cell ≠ .sp := by simpa using hnot
    have hpush : BusTrace (push16 s.pc s) _ (push (pushedStatus s) (push16 s.pc s)) := BusTrace.refl.push _
    have hentered : BusTrace (push16 s.pc s) _ (setTrapFlags (push (pushedStatus s) (push16 s.pc s))) :=
      hpush.regs rfl rfl rfl
    have hlater : BusTrace (push16 s.pc s) _ (takeBreak s) :=
      ((hentered.read Config.irqBrkVector).read (Config.irqBrkVector + 1)).regs rfl rfl rfl
    refine ⟨_, _, _, exec_brk s, hstate ▸ push16_busTrace s.pc s, hstate ▸ hlater, ?_, .pushes rfl hne hset hstate⟩
    simp [eventsBeforeRead, Instr.op, Instr.mode, indexCells, compositions, pointerReads, hne]

theorem cellReads_readPoint (h : FirstUnset set (cellReads i s) p) : ReadPoint i s p := by
  cases i
  case adc o | sbc o | and o | ora o | eor o | cmp o | cpx o | cpy o =>
    exact readPoint_of_value h rfl (BusTrace.refl.regs rfl rfl rfl) rfl
      (fun _ _ => by simp [eventsAfterPointer, Instr.op, Instr.mode, compositions]) nofun
  case lda o | ldx o | ldy o | dop _ o | top _ o =>
    exact readPoint_of_value h rfl (BusTrace.refl.regs rfl rfl rfl) rfl nofun nofun
  case bit m =>
    exact readPoint_of_value (o := .mem m) (cells := [.a]) h (exec_bit m s) (BusTrace.refl.regs rfl rfl rfl) rfl
      (fun _ _ => by
        simp [eventsAfterPointer, Instr.op, Instr.mode, compositions, Value.mode, mem_mode_ne_imm]) nofun
  case asl o | lsr o | rol o | ror o =>
    cases o with
    | acc => exact readPoint_of_self h rfl (fun _ => rfl) nofun
    | mem m => exact readPoint_of_mem h rfl (shiftMem_busTrace _ _ _) rfl (fun _ _ => rfl) nofun
  case inc m => exact readPoint_of_mem h rfl (incMem_busTrace _ _) rfl nofun nofun
  case dec m => exact readPoint_of_mem h rfl (decMem_busTrace _ _) rfl nofun nofun
  case sta m | stx m | sty m | sax m => exact readPoint_of_mem h rfl (BusTrace.refl.write _ _) rfl (fun _ _ => rfl) nofun
  case lax m => exact readPoint_of_mem h rfl ((BusTrace.refl.read _).regs rfl rfl rfl) rfl nofun nofun
  case slo m =>
    exact readPoint_of_compose (firstInstr := .asl (.mem m)) h rfl aslMem_modifies (updateAZN_leavesBus or8)
      (by simp [firstPrimitives]) ⟨_, rfl, rfl, rfl, rfl⟩ (fun _ _ => unchangedBut_shiftMem _ _ _) nofun
      (by simp [eventsAfterPointer, Instr.op, compositions])
  case sre m =>
    exact readPoint_of_compose (firstInstr := .lsr (.mem m)) h rfl lsrMem_modifies (updateAZN_leavesBus xor8)
      (by simp [firstPrimitives]) ⟨_, rfl, rfl, rfl, rfl⟩ (fun _ _ => unchangedBut_shiftMem _ _ _) nofun
      (by simp [eventsAfterPointer, Instr.op, compositions])
  case rla m =>
    exact readPoint_of_compose (firstInstr := .rol (.mem m)) h rfl rolMem_modifies (updateAZN_leavesBus and8)
      (by simp [firstPrimitives]) ⟨_, rfl, rfl, rfl, rfl⟩ (fun _ _ => unchangedBut_shiftMem _ _ _)
      (by simp [eventsAfterPointer, Instr.op, compositions]) (by simp [eventsAfterPointer, Instr.op, compositions])
  case rra m =>
    exact readPoint_of_compose (firstInstr := .ror (.mem m)) h rfl rorMem_modifies adcByte_leavesBus
      (by simp [firstPrimitives]) ⟨_, rfl, rfl, rfl, rfl⟩ (fun _ _ => unchangedBut_shiftMem _ _ _)
      (by simp [eventsAfterPointer, Instr.op, compositions]) (by simp [eventsAfterPointer, Instr.op, compositions])
  case dcp m =>
    have hframe : unchangedBut [] s (decMemQuiet (effAddr m s).1 (effAddr m s).2) :=
      (unchangedBut_effAddr _ m s).trans (unchangedBut_decMemQuiet _ _ _)
    exact readPoint_of_compose (firstInstr := .dec m) h rfl decMemQuiet_modifies cmpByte_leavesBus
      (by simp [firstPrimitives]) ⟨_, rfl, rfl, hframe .z (by simp), hframe .n (by simp)⟩ (unchangedBut_decMemQuiet _) nofun
      (by simp [eventsAfterPointer, Instr.op, compositions])
  case isc m =>
    exact readPoint_of_compose (firstInstr := .inc m) h rfl incMem_modifies sbcByte_leavesBus
      (by simp [firstPrimitives]) ⟨_, rfl, rfl, rfl, rfl⟩ (fun a t => (unchangedBut_incMem a t).mono (by simp)) nofun
      (by simp [eventsAfterPointer, Instr.op, compositions])
  case brk => exact readPoint_brk h
  case jmp _ | clc | cld | cli | clv | sec | sed | sei | nop | nopU _ | unassigned _ => cases h
  all_goals exact readPoint_of_self h rfl (fun _ => rfl) nofun

/-! ### What the fault leaves -/

namespace EffectsBefore

variable {ws : List (Word × Byte)}

theorem frame (h : EffectsBefore i s p ws) : unchangedBut [.sp, .c, .z, .n] s p.state := by
  cases h with
  | none _ hframe _ => exact hframe.mono (List.nil_subset _)
  | pushes _ _ _ hstate => exact hstate ▸ (unchangedBut_push16 s.pc s).mono (by simp)
  | first _ _ _ hframe _ => exact hframe.mono (by simp)

theorem sp_eq (h : EffectsBefore i s p ws) : p.state.sp = if i.op = .brk ∧ p.cell ≠ .sp then s.sp - 2 else s.sp := by
  cases h with
  | none _ hframe hbrk => rw [if_neg fun ⟨hop, hcell⟩ => hcell (hbrk hop)]; exact hframe .sp (by simp)
  | pushes hi hcell _ hstate => rw [if_pos ⟨by rw [hi]; rfl, hcell⟩, hstate, push16_sp]
  | first _ hi _ hframe _ =>
    rw [if_neg fun ⟨hop, _⟩ => absurd (hop ▸ hi) (by decide)]
    exact hframe .sp (by simp)

theorem cell_not_mem (h : EffectsBefore i s p ws) : p.cell ∉ p.set := by
  cases h with
  | none hset _ _ => simp [hset]
  | pushes _ _ hset _ => simp [hset]
  | first _ _ hcell _ _ => exact hcell

/-- Only a composition that has stored its byte has set a flag. -/
theorem flags_unchanged (h : EffectsBefore i s p ws) (hquiet : i.op ∉ compositions ∨ ws = []) :
    p.set = [] ∧ p.state.c = s.c ∧ p.state.z = s.z ∧ p.state.n = s.n := by
  cases h with
  | none hset hframe _ => exact ⟨hset, hframe .c (by simp), hframe .z (by simp), hframe .n (by simp)⟩
  | pushes _ _ hset hstate =>
    have hframe := hstate ▸ unchangedBut_push16 s.pc s
    exact ⟨hset, hframe .c (by simp), hframe .z (by simp), hframe .n (by simp)⟩
  | first hws hi _ _ _ => exact absurd hquiet (not_or.mpr ⟨not_not.mpr hi, hws⟩)

theorem afterFirstPrimitive (h : EffectsBefore i s p ws) (hws : ws ≠ []) : AfterFirstPrimitive i s p := by
  cases h with
  | none _ _ _ => exact absurd rfl hws
  | pushes hi _ _ _ =>
    intro m q hq hiq
    obtain ⟨hop, -⟩ := firstPrimitives_composition hq
    rw [← hiq, hi] at hop
    exact absurd hop (by decide)
  | first _ _ _ _ hafter => exact hafter

end EffectsBefore

/-- A step that ends in `UninitRead` has read an unset cell (R22); no instruction ends in that fault itself. -/
theorem unsetRead_of_uninitRead {t : Tracked} {r : RegCell} (hfault : t.state.fault = none)
    (hstep : trackedStep t = .fault (.uninitRead r)) : ∃ p, unsetRead t = some p ∧ p.cell = r := by
  cases hread : unsetRead t with
  | some p =>
    rw [trackedStep_of_unset hfault hread] at hstep
    exact ⟨p, rfl, by injection hstep with hstep; injection hstep⟩
  | none =>
    rw [trackedStep_of_set hfault hread, step_of_no_fault hfault] at hstep
    by_cases hop : (fetch t.state).1.op = .unassigned
    · obtain ⟨opcode, hunassigned⟩ := instr_eq_unassigned hop
      rw [hunassigned] at hstep
      cases hstep
    · obtain ⟨s, hexec⟩ := exec_next_of_op (fetch t.state).2 hop
      rw [hexec] at hstep
      cases hstep

/-- Settles O60: the faulted block is the one at the first unset read, `cellReads_readPoint`, with the mark. -/
theorem uninitReadKeepsPrecedingEffects : Obligations.UninitReadKeepsPrecedingEffects := by
  intro t r hfault hpc hstep
  obtain ⟨p, hread, rfl⟩ := unsetRead_of_uninitRead hfault hstep
  have hfirst : FirstUnset t.set (cellReads (fetch t.state).1 (fetch t.state).2) p := by
    rwa [unsetRead, if_pos hpc] at hread
  obtain ⟨es, later, v, hexec, hbefore, hlater, hlength, heffects⟩ := cellReads_readPoint hfirst
  have hmark : unchangedBut [.fault] p.state (uninitState p t.set).state := by simp [unchangedBut_iff, uninitState]
  have hframe := (heffects.frame.mono (by simp)).trans (hmark.mono (List.subset_append_right [.sp, .c, .z, .n] _))
  rw [trackedHostStep_of_unset hfault hread]
  refine ⟨es, later, v, hexec, hbefore.events_eq, hlater.events_eq, hlength, hbefore.stored, rfl, ?_, hframe .pc (by simp),
    hframe, heffects.sp_eq, fun hquiet => ?_, fun m q hq hi hws => ?_⟩
  · rw [uninitState_set, List.mem_append, not_or]
    exact ⟨unsetRead_not_set hread, heffects.cell_not_mem⟩
  · obtain ⟨hset, hflags⟩ := heffects.flags_unchanged hquiet
    exact ⟨by rw [uninitState_set, hset, List.append_nil], hflags⟩
  · obtain ⟨hset, hprimitive⟩ := heffects.afterFirstPrimitive hws m q hq hi
    exact ⟨by rw [uninitState_set, hset], hprimitive⟩

end Sys2Proof.Machine
end
